-- ==== Sys2Proof/Word.lean ====
section
/-! DEFINITION. The word types of the core: bytes of the transmit queue (20_memory.md R59), binary32 bit
patterns (10_state.md R37) and 32-bit millisecond counts (30_encoding.md R84). -/

namespace Sys2Proof

/-- A byte of a frame or of the transmit queue. -/
abbrev Byte := BitVec 8

/-- A binary32 value as its bit pattern: sign in bit 31, biased exponent in 30:23, fraction in 22:0 (R37). -/
abbrev F32 := BitVec 32

/-- A TIME_W-bit millisecond count; TIME_W is 32 (00_scope.md R6). -/
abbrev Millis := BitVec 32

end Sys2Proof
end

