-- ==== Sys2Proof/Syntax.lean ====
section
/-! DEFINITION. The operations of the core, one constructor per row of spec/opcode_table.json (30_encoding.md
R71), and the lines of a scenario, the block's assembly (R87). A label names an operation and carries no operand
bits (R70): operands come from the state, the ports and the composite's local values. -/

namespace Sys2Proof

/-- The operation labels (30_encoding.md R71). -/
inductive Instr where
  /-- 0x00, ENV: every register to its reset value (42_scheduler_trigger.md R150). -/
  | reset
  /-- 0x01, MAIN: leave the startup wait (R151). -/
  | start
  /-- 0x02, MAIN: one iteration of the loop (R152). -/
  | poll
  /-- 0x03, IRQ: the transmit trigger (R166). -/
  | trig
  /-- 0x04, SINK: one byte to the wire (43_framer_crc.md R187). -/
  | emit
  /-- 0x05, ENV: the millisecond count advances (60_exceptions.md R214). -/
  | time
  /-- 0x08: sample, convert and filter once (41_filter_cascade.md R120). -/
  | tick
  /-- 0x09: read the ADC and scale to a voltage (40_sample_convert.md R101). -/
  | sample
  /-- 0x0A: voltage to illuminance, clamped (R105). -/
  | convert
  /-- 0x0B: exponential smoother (41_filter_cascade.md R124). -/
  | ewma
  /-- 0x0C: push the raw-sample history (R126). -/
  | hpush
  /-- 0x0D: notch filter (R128). -/
  | notch
  /-- 0x0E: FIR filter (R131). -/
  | fir
  /-- 0x10: the transmit step (42_scheduler_trigger.md R160). -/
  | xmit
  /-- 0x11: the frame's integer value (43_framer_crc.md R181). -/
  | value
  /-- 0x12: CRC-8 of a byte sequence (R182). -/
  | crc8
  /-- 0x13: the binary frame (R184). -/
  | packBin
  /-- 0x14: the text frame (R185). -/
  | packTxt
  /-- 0x15: the diagnostic record (42_scheduler_trigger.md R171). -/
  | diag
  deriving DecidableEq, Repr

/-- The classes of label, `op[4:3]` (30_encoding.md R70). -/
inductive LabelClass where
  /-- 00: a step one agent takes on its own. -/
  | agentStep
  /-- 01: a sub-operation of TICK, or TICK. -/
  | tickDatapath
  /-- 10: a sub-operation of XMIT, or XMIT. -/
  | transmitDatapath
  deriving DecidableEq, Repr

/-- A line of a scenario (30_encoding.md R87), times as values of the unbounded count T. The `config` line is the
machine's configuration and no line of the list. -/
inductive Line where
  /-- `reset`. -/
  | reset
  /-- `start @t`: diag_ready is seen at time t. -/
  | start (t : Nat)
  /-- `poll @t [code=c]`. -/
  | poll (t : Nat) (code : Option Nat)
  /-- `poll @t1..t2 [code=c]`: one POLL at every integer time of the range. -/
  | pollRange (t1 t2 : Nat) (code : Option Nat)
  /-- `trig @t`: one rising edge of trig_in. -/
  | trig (t : Nat)
  /-- `emit n`: the sink takes n bytes. -/
  | emit (n : Nat)
  deriving DecidableEq, Repr

end Sys2Proof
end

