-- ==== Sys2Proof/WellFormed.lean ====
section
/-! DEFINITION. Which operations and scenario lines are well formed. The checks of a configuration (00_scope.md R7)
are in Sys2Proof/Machine/ConfigCheck.lean. -/

namespace Sys2Proof

/-- A label has no operand, so every operation of the table is well formed (30_encoding.md R70). -/
def Instr.wellFormed (_ : Instr) : Bool := true

/-- The code a poll line gives fits the 10-bit ADC port (30_encoding.md R83, R88). -/
def codeFits : Option Nat → Bool
  | none => true
  | some c => decide (c ≤ 1023)

/-- A line whose fields fit the stimulus word of 30_encoding.md R88, and whose range is not empty. -/
def Line.wellFormed : Line → Bool
  | .reset => true
  | .start _ => true
  | .poll _ code => codeFits code
  | .pollRange t1 t2 code => decide (t1 ≤ t2) && codeFits code
  | .trig _ => true
  | .emit n => decide (n ≤ 2047)

end Sys2Proof
end

