-- ==== Sys2Proof/Decode.lean ====
section
/-! DEFINITION. Decoding and encoding: the 5-bit operation labels (30_encoding.md R70 to R72) and the 48-bit
stimulus words (R88). Both decoders are total and reject by name; the encoders follow after them. -/

namespace Sys2Proof

/-- Why a label or a stimulus word is refused. -/
inductive DecodeError where
  /-- `reserved_label`: the label is one R72 reserves. -/
  | reservedLabel
  /-- `bad_stimulus`: an assigned label that is no stimulus, a poll code above 1023, or a field the line does not
  have that is not 0 (R88; the last DEDUCED, log entry 14). -/
  | badStimulus
  deriving DecidableEq, Repr

/-- The label table read from its bits (R71); the labels of R72 are refused. -/
def decodeLabel (op : BitVec 5) : Except DecodeError Instr :=
  match op.toNat with
  | 0x00 => .ok .reset
  | 0x01 => .ok .start
  | 0x02 => .ok .poll
  | 0x03 => .ok .trig
  | 0x04 => .ok .emit
  | 0x05 => .ok .time
  | 0x08 => .ok .tick
  | 0x09 => .ok .sample
  | 0x0A => .ok .convert
  | 0x0B => .ok .ewma
  | 0x0C => .ok .hpush
  | 0x0D => .ok .notch
  | 0x0E => .ok .fir
  | 0x10 => .ok .xmit
  | 0x11 => .ok .value
  | 0x12 => .ok .crc8
  | 0x13 => .ok .packBin
  | 0x14 => .ok .packTxt
  | 0x15 => .ok .diag
  | _ => .error .reservedLabel

/-- The value T of a line's 32-bit time field: the smallest value not below the previous time whose residue modulo
2^32 is the field (R88). -/
def recoverTime (prev : Nat) (field : Millis) : Nat :=
  prev + (field - BitVec.ofNat 32 prev).toNat

/-- Bits 47:43 of a stimulus word (R88). -/
def wordLabel (w : BitVec 48) : BitVec 5 := w.extractLsb' 43 5

/-- Bits 42:32 of a stimulus word (R88). -/
def wordArg (w : BitVec 48) : BitVec 11 := w.extractLsb' 32 11

/-- Bits 31:0 of a stimulus word (R88). -/
def wordTime (w : BitVec 48) : Millis := w.extractLsb' 0 32

/-- One stimulus word as a scenario line, with its time recovered from the previous time (R88). -/
def decodeWord (prev : Nat) (w : BitVec 48) : Except DecodeError Line :=
  let arg := wordArg w
  let field := wordTime w
  match decodeLabel (wordLabel w) with
  | .error e => .error e
  | .ok .reset => if arg = 0 ∧ field = 0 then .ok .reset else .error .badStimulus
  | .ok .start => if arg = 0 then .ok (.start (recoverTime prev field)) else .error .badStimulus
  | .ok .poll =>
    if arg.toNat ≤ 1023 then .ok (.poll (recoverTime prev field) (some arg.toNat)) else .error .badStimulus
  | .ok .trig => if arg = 0 then .ok (.trig (recoverTime prev field)) else .error .badStimulus
  | .ok .emit => if field = 0 then .ok (.emit arg.toNat) else .error .badStimulus
  | .ok .time | .ok .tick | .ok .sample | .ok .convert | .ok .ewma | .ok .hpush | .ok .notch | .ok .fir
  | .ok .xmit | .ok .value | .ok .crc8 | .ok .packBin | .ok .packTxt | .ok .diag => .error .badStimulus

/-- The label of an operation (R71). -/
def encodeLabel : Instr → BitVec 5
  | .reset => 0b00000#5
  | .start => 0b00001#5
  | .poll => 0b00010#5
  | .trig => 0b00011#5
  | .emit => 0b00100#5
  | .time => 0b00101#5
  | .tick => 0b01000#5
  | .sample => 0b01001#5
  | .convert => 0b01010#5
  | .ewma => 0b01011#5
  | .hpush => 0b01100#5
  | .notch => 0b01101#5
  | .fir => 0b01110#5
  | .xmit => 0b10000#5
  | .value => 0b10001#5
  | .crc8 => 0b10010#5
  | .packBin => 0b10011#5
  | .packTxt => 0b10100#5
  | .diag => 0b10101#5

/-- The class of an operation, as the label table lists it (R70, R71). -/
def Instr.labelClass : Instr → LabelClass
  | .reset | .start | .poll | .trig | .emit | .time => .agentStep
  | .tick | .sample | .convert | .ewma | .hpush | .notch | .fir => .tickDatapath
  | .xmit | .value | .crc8 | .packBin | .packTxt | .diag => .transmitDatapath

/-- The class a label's bits 4:3 name; 11 is reserved (R70). -/
def classOfBits (op : BitVec 5) : Option LabelClass :=
  match (op.extractLsb' 3 2).toNat with
  | 0 => some .agentStep
  | 1 => some .tickDatapath
  | 2 => some .transmitDatapath
  | _ => none

/-- A stimulus word from its fields, label in the high bits (R88). -/
def stimulusWord (label : BitVec 5) (arg : BitVec 11) (field : Millis) : BitVec 48 := label ++ arg ++ field

/-- The argument field of a poll line; a poll without a code takes no conversion and carries 0 (DESIGN CHOICE, log
entry 21). The spec gives a code above 1023 no word: the field keeps its low 11 bits (DESIGN CHOICE, log entry 31). -/
def codeField (code : Option Nat) : BitVec 11 := BitVec.ofNat 11 (code.getD 0)

/-- The word of one POLL. -/
def pollWord (t : Nat) (code : Option Nat) : BitVec 48 :=
  stimulusWord (encodeLabel .poll) (codeField code) (BitVec.ofNat 32 t)

/-- The words of a scenario line: one word, but a range has one per time (R88). The spec does not say what the word of
`emit n` is for n above 2047: it keeps n's low 11 bits (DESIGN CHOICE, log entry 30). -/
def encodeLine : Line → List (BitVec 48)
  | .reset => [stimulusWord (encodeLabel .reset) 0 0]
  | .start t => [stimulusWord (encodeLabel .start) 0 (BitVec.ofNat 32 t)]
  | .poll t code => [pollWord t code]
  | .pollRange t1 t2 code => (List.range' t1 (t2 + 1 - t1)).map fun t => pollWord t code
  | .trig t => [stimulusWord (encodeLabel .trig) 0 (BitVec.ofNat 32 t)]
  | .emit n => [stimulusWord (encodeLabel .emit) (BitVec.ofNat 11 n) 0]

/-- The time of a line; a line without one, reset or emit, leaves the previous time (R88; DEDUCED, log entry 33). -/
def Line.timeAfter (prev : Nat) : Line → Nat
  | .reset => prev
  | .start t => t
  | .poll t _ => t
  | .pollRange _ t2 _ => t2
  | .trig t => t
  | .emit _ => prev

/-- A list of stimulus words, each time recovered from the line before it (R88), the first from `prev` (log entry
33). -/
def decodeWords (prev : Nat) : List (BitVec 48) → Except DecodeError (List Line)
  | [] => .ok []
  | w :: rest =>
    match decodeWord prev w with
    | .error e => .error e
    | .ok l =>
      match decodeWords (l.timeAfter prev) rest with
      | .error e => .error e
      | .ok lines => .ok (l :: lines)

/-- A range line stands for one poll at every time of it (R87); every other line stands for itself. -/
def Line.expand : Line → List Line
  | .pollRange t1 t2 code => (List.range' t1 (t2 + 1 - t1)).map fun t => .poll t code
  | .reset => [.reset]
  | .start t => [.start t]
  | .poll t code => [.poll t code]
  | .trig t => [.trig t]
  | .emit n => [.emit n]

/-- The operation the decoder reads from a row's bits as spec/opcode_table.json numbers them: the label is the low
five bits, which are all the bits the table's mask fixes (log entry 27). -/
def decodeTableWord (_nbits w : Nat) : Option Instr :=
  match decodeLabel (BitVec.ofNat 5 w) with
  | .ok i => some i
  | .error _ => none

end Sys2Proof
end

