-- ==== Sys2Proof/Config.lean ====
section
/-! DEFINITION. What an implementation fixes (00_scope.md R2, R6) and the free values. The parameters are plain
data, carried by the machine's state and written by no step (10_state.md R22), so that every claim about all
states is a claim about all configurations. The free values are constants without a body. -/

namespace Sys2Proof

/-- The transmit condition, a build-time option (R2). -/
inductive TxMode where
  /-- Elapsed time only (42_scheduler_trigger.md R157). -/
  | timer
  /-- `pendingSend` and elapsed time (R158). -/
  | irq
  deriving DecidableEq, Repr

/-- The wire format, a build-time option (R2). -/
inductive FrameMode where
  /-- The 3-byte frame with CRC-8 (30_encoding.md R75). -/
  | binary
  /-- The 11-byte legacy text frame (30_encoding.md R78). -/
  | text
  deriving DecidableEq, Repr

/-- The register a frame's value comes from (R6, `VALUE_SRC`; SMOOTHED by decision D8). -/
inductive ValueSrc where
  | lux
  | smoothed
  | notch
  | fir
  deriving DecidableEq, Repr

/-- The OPEN parameter `EXPF` on `[+0.0, +∞]` as plain data (40_sample_convert.md R106).
DESIGN CHOICE (log entry 5). -/
inductive ExpFn where
  /-- The correctly rounded exponential, the choice the vectors of 95_test_vectors.md make. -/
  | correctlyRounded
  /-- A step function: 1.0 below the first breakpoint, then the value of the greatest breakpoint not above the
  argument. There are finitely many binary32 values, so every function R106 admits is one of these. -/
  | table (breakpoints : List (F32 × F32))
  deriving DecidableEq, Repr

/-- The parameters of 00_scope.md R6 that the source or a decision does not fix, and the two (`VALUE_SRC`,
`TXQ_DEPTH`) that a decision fixes to a default of a wider range (log entry 20). `TAPS` is the length of `firW`. -/
structure Config where
  /-- `VSUPPLY`, OPEN. -/
  vsupply : F32
  /-- `FIR_W[0..TAPS-1]`, OPEN. -/
  firW : List F32
  /-- `SAMPLE_PERIOD` in ms, OPEN. -/
  samplePeriod : Nat
  /-- `TX_PERIOD` in ms, OPEN. -/
  txPeriod : Nat
  /-- `TX_MODE`, OPEN. -/
  txMode : TxMode
  /-- `FRAME_MODE`, OPEN. -/
  frameMode : FrameMode
  /-- `STATION_ID`, OPEN. -/
  stationId : Nat
  /-- `EXPF`, OPEN. -/
  expf : ExpFn
  /-- `VALUE_SRC`, SMOOTHED by decision D8. -/
  valueSrc : ValueSrc := .smoothed
  /-- `TXQ_DEPTH`, 16 by decision D21. -/
  txqDepth : Nat := 16
  deriving DecidableEq, Repr

/-- `TAPS`, the length of the weight table (41_filter_cascade.md R132). -/
def Config.taps (c : Config) : Nat := c.firW.length

/-- `L = max(3, TAPS)` (R6, 41_filter_cascade.md R133). -/
def Config.histLen (c : Config) : Nat := max 3 c.taps

/-- The named checks of 00_scope.md R7, and one for the properties of `EXPF`. -/
inductive ConfigError where
  /-- `taps_pos`: TAPS is 0. -/
  | tapsPos
  /-- `weights_finite`: a weight is a NaN or an infinity. -/
  | weightsFinite
  /-- `vsupply_pos`: VSUPPLY is not finite or not above 0. -/
  | vsupplyPos
  /-- `station_4bit`: STATION_ID is above 15. -/
  | station4bit
  /-- `periods_range`: a period is 0 or does not fit TIME_W bits. -/
  | periodsRange
  /-- `txq_fits`: the queue is below its range (R6) or too short for a frame. -/
  | txqFits
  /-- `weights_bounded`: TAPS or a weight exceeds the overflow guard (41_filter_cascade.md R134). -/
  | weightsBounded
  /-- The `EXPF` table does not have the properties of 40_sample_convert.md R106 (log entry 5). -/
  | expfProperties
  deriving DecidableEq, Repr

/-- The spec's example configuration: the values of 95_test_vectors.md's conventions and of its program P1.
DESIGN CHOICE: the OPEN parameters have no value in the spec; State.reset carries these, and no statement rests
on them (log entry 4). -/
def Config.specExample : Config where
  vsupply := 0x40A00000
  firW := [0x3DCCCCCD, 0x3E4CCCCD, 0x3ECCCCCD, 0x3E4CCCCD, 0x3DCCCCCD]
  samplePeriod := 10
  txPeriod := 1000
  txMode := .timer
  frameMode := .binary
  stationId := 5
  expf := .correctlyRounded

/-- FREE VALUE: the sign and payload of the NaN an operation on these operands returns (log entry 7). -/
opaque Config.nanBits : F32 → F32 → F32

/-- FREE VALUE: `EXPF` of a negative argument, before it is made a number (log entry 6). -/
opaque Config.expfBelowZero : F32 → F32

/-- FREE VALUE: `EXPF` of a NaN (log entry 6). -/
opaque Config.expfOfNaN : F32 → F32

/-- FREE VALUE: the external formatter's `FMT3`, the ASCII rendering of one field (30_encoding.md R82, log
entry 23). -/
opaque Config.fmt3 : F32 → List Byte

end Sys2Proof
end

