-- ==== Sys2Proof/Machine/Float.lean ====
section
/-! DEFINITION. The binary32 primitives of 00_scope.md R10, computed exactly on integers and rounded once, to
nearest with ties to even. Every finite binary32 value is a whole number of units of 2^-149; a magnitude below is
that number. What IEEE 754 says beyond R10's words (infinities, signed zeros, NaN) is PRESUMED, log entry 8. -/

namespace Sys2Proof.Machine

/-- Bit 31, the sign (10_state.md R37). -/
def f32Sign (a : F32) : Bool := a.msb

/-- Bits 30:23, the biased exponent (R37). -/
def f32Exp (a : F32) : Nat := a.toNat / 2 ^ 23 % 2 ^ 8

/-- Bits 22:0, the fraction (R37). -/
def f32Frac (a : F32) : Nat := a.toNat % 2 ^ 23

/-- Neither a number nor an infinity. -/
def f32IsNaN (a : F32) : Bool := f32Exp a == 255 && f32Frac a != 0

/-- Plus or minus infinity. -/
def f32IsInf (a : F32) : Bool := f32Exp a == 255 && f32Frac a == 0

/-- Neither a NaN nor an infinity. -/
def f32IsFinite (a : F32) : Bool := f32Exp a != 255

/-- The magnitude in units of 2^-149; an infinity counts as 2^277 units, above every finite value. -/
def f32Mag (a : F32) : Nat :=
  if f32Exp a = 0 then f32Frac a else (2 ^ 23 + f32Frac a) * 2 ^ (f32Exp a - 1)

/-- The signed value in units of 2^-149. -/
def f32Val (a : F32) : Int := if f32Sign a then -(f32Mag a : Int) else (f32Mag a : Int)

/-- The whole number nearest to `num / den`, ties to even. -/
def rneDiv (num den : Nat) : Nat :=
  let q := num / den
  let r := num % den
  if den < 2 * r ∨ (2 * r = den ∧ q % 2 = 1) then q + 1 else q

/-- The pattern of +infinity. -/
def infBits : Nat := 0x7F800000

/-- The pattern (sign 0) nearest to `num / den` units of 2^-149, ties to even. A value of `24 + sh` bits is rounded
to a multiple of `2 ^ sh`; the rounded quotient and the exponent then add up to the pattern, a carry into the next
binade included, and a value that rounds beyond the largest finite one is an infinity. -/
def roundMag (num den : Nat) : Nat :=
  let sh := Nat.log2 (num / den) - 23
  min (sh * 2 ^ 23 + rneDiv num (den * 2 ^ sh)) infBits

/-- A sign and a magnitude's pattern. -/
def f32Pack (sign : Bool) (pattern : Nat) : F32 :=
  BitVec.ofNat 32 (if sign then pattern + 2 ^ 31 else pattern)

/-- The NaN an operation on `a` and `b` returns: quiet, its sign and payload a free value (log entry 7). -/
def f32NaN (a b : F32) : F32 := 0x7FC00000 ||| (Config.nanBits a b &&& 0x803FFFFF)

/-- `f32add(a, b)` (R10). -/
def f32add (a b : F32) : F32 :=
  if f32IsNaN a || f32IsNaN b then f32NaN a b
  else if f32IsInf a then
    if f32IsInf b && f32Sign a != f32Sign b then f32NaN a b else a
  else if f32IsInf b then b
  else
    let v := f32Val a + f32Val b
    if v = 0 then f32Pack (f32Sign a && f32Sign b) 0
    else f32Pack (decide (v < 0)) (roundMag v.natAbs 1)

/-- `f32sub(a, b)` (R10): `a` plus `b` with its sign changed. -/
def f32sub (a b : F32) : F32 := f32add a (b ^^^ 0x80000000)

/-- `f32mul(a, b)` (R10). -/
def f32mul (a b : F32) : F32 :=
  let sign := f32Sign a != f32Sign b
  if f32IsNaN a || f32IsNaN b then f32NaN a b
  else if f32IsInf a || f32IsInf b then
    if f32Mag a = 0 ∨ f32Mag b = 0 then f32NaN a b else f32Pack sign infBits
  else f32Pack sign (roundMag (f32Mag a * f32Mag b) (2 ^ 149))

/-- `f32div(a, b)` (R10). -/
def f32div (a b : F32) : F32 :=
  let sign := f32Sign a != f32Sign b
  if f32IsNaN a || f32IsNaN b then f32NaN a b
  else if f32IsInf a then
    if f32IsInf b then f32NaN a b else f32Pack sign infBits
  else if f32IsInf b then f32Pack sign 0
  else if f32Mag b = 0 then
    if f32Mag a = 0 then f32NaN a b else f32Pack sign infBits
  else f32Pack sign (roundMag (f32Mag a * 2 ^ 149) (f32Mag b))

/-- `f32gt(a, b)`, the ordered comparison `a > b`: false when either is a NaN (R10). -/
def f32gt (a b : F32) : Bool :=
  !(f32IsNaN a) && !(f32IsNaN b) && decide (f32Val b < f32Val a)

/-- `i2f(n)`, exact for `n ≤ 2^24` (R10). -/
def i2f (n : Nat) : F32 := f32Pack false (roundMag (n * 2 ^ 149) 1)

/-- `trunc(x)` of a finite value: the integer part, rounded toward zero (R10). -/
def f32Trunc (a : F32) : Int :=
  if f32Sign a then -((f32Mag a / 2 ^ 149 : Nat) : Int) else ((f32Mag a / 2 ^ 149 : Nat) : Int)

end Sys2Proof.Machine
end

