-- ==== Sys2Proof/Machine/Exp.lean ====
section
/-! DEFINITION. The configuration function `EXPF` (00_scope.md R6, 40_sample_convert.md R106). On `[+0.0, +∞]` it is
the configuration's; of other arguments the spec says only that a non-NaN argument gives no NaN, and the value is
free (log entries 5 and 6). -/

namespace Sys2Proof.Machine

/-- The pattern of 1.0. -/
def oneBits : Nat := 0x3F800000

/-- The sum of the terms `x^k / k!` for `k` up to `j + fuel`, in units of 2^-200, where `x` is `mag` units of 2^-149
and `term` is the `j`-th term. Each term is cut off to a whole unit, and after a 0 there are only zeros. -/
def expSeries : (fuel : Nat) → (j mag term : Nat) → Nat
  | 0, _, _, term => term
  | fuel + 1, j, mag, term =>
    if term = 0 then 0
    else term + expSeries fuel (j + 1) mag (term * mag / ((j + 1) * 2 ^ 149))

/-- The correctly rounded exponential of a value from +0.0 up. 256 terms leave an error below 2^-150 of the result
for arguments under 89, and every larger argument overflows. -/
def expCorrectlyRounded (x : F32) : F32 :=
  if 89 * 2 ^ 149 ≤ f32Mag x then f32Pack false infBits
  else f32Pack false (roundMag (expSeries 256 0 (f32Mag x) (2 ^ 200) * 2 ^ 149) (2 ^ 200))

/-- The value of the greatest breakpoint not above `x`; 1.0 below the first. Patterns of values from +0.0 up are
ordered as their values are. -/
def expTable (breakpoints : List (F32 × F32)) (x : F32) : F32 :=
  breakpoints.foldl (fun y p => if p.1.toNat ≤ x.toNat then p.2 else y) (BitVec.ofNat 32 oneBits)

/-- Any pattern made a number: the patterns of NaNs lose the lowest exponent bit, all others stay. -/
def notNaN (y : F32) : F32 := if f32IsNaN y then y &&& 0xFF7FFFFF else y

/-- `EXPF(x)` (R106). -/
def expf (f : ExpFn) (x : F32) : F32 :=
  if f32IsNaN x then Config.expfOfNaN x
  else if f32Sign x then notNaN (Config.expfBelowZero x)
  else
    match f with
    | .correctlyRounded => expCorrectlyRounded x
    | .table breakpoints => expTable breakpoints x

/-- The breakpoints rise strictly from above `key`, and their values do not fall and start from `value` on; none is
a NaN or negative. This gives the table the four properties of R106. -/
def expTableRises : (key value : Nat) → List (F32 × F32) → Bool
  | _, _, [] => true
  | key, value, (x, y) :: rest =>
    decide (key < x.toNat) && decide (x.toNat ≤ infBits) && decide (value ≤ y.toNat)
      && decide (y.toNat ≤ infBits) && expTableRises x.toNat y.toNat rest

/-- The configuration's `EXPF` has the properties of R106, and only those are asked of it. The clause of R102 that an
infinite voltage gives 999.0 follows from none of them, and a table whose value at +∞ is small is admitted (DESIGN CHOICE,
log entry 34). -/
def expFnOk : ExpFn → Bool
  | .correctlyRounded => true
  | .table breakpoints => expTableRises 0 oneBits breakpoints

end Sys2Proof.Machine
end

