-- ==== Sys2Proof/Machine/ConfigCheck.lean ====
section
/-! DEFINITION. The well-formedness of a configuration (00_scope.md R7), check by check. -/

namespace Sys2Proof.Machine

/-- The length of a frame (30_encoding.md R80). -/
def frameLen : FrameMode → Nat
  | .binary => 3
  | .text => 11

/-- A period lies in `[1, 2^TIME_W - 1]` (R6). -/
def periodOk (p : Nat) : Bool := decide (1 ≤ p) && decide (p ≤ 2 ^ 32 - 1)

/-- `|w| ≤ 2^100`, compared on the pattern without its sign (41_filter_cascade.md R134); 0x71800000 is 2^100. -/
def weightBounded (w : F32) : Bool := decide (w.toNat % 2 ^ 31 ≤ 0x71800000)

/-- The first check of R7 the configuration fails, or none when it is well formed. Which of several failed checks is named
is a DESIGN CHOICE (log entry 25). -/
def configError (c : Config) : Option ConfigError :=
  if c.taps < 1 then some .tapsPos
  else if c.firW.any (fun w => !(f32IsFinite w)) then some .weightsFinite
  else if !(f32IsFinite c.vsupply) || f32Sign c.vsupply || f32Mag c.vsupply == 0 then some .vsupplyPos
  else if 15 < c.stationId then some .station4bit
  else if !(periodOk c.samplePeriod) || !(periodOk c.txPeriod) then some .periodsRange
  else if c.txqDepth < 11 ∨ c.txqDepth < frameLen c.frameMode then some .txqFits
  else if 65536 < c.taps ∨ c.firW.any (fun w => !(weightBounded w)) then some .weightsBounded
  else if !(expFnOk c.expf) then some .expfProperties
  else none

end Sys2Proof.Machine
end

