-- ==== Sys2Proof/Machine/Constants.lean ====
section
/-! DEFINITION. The parameters of 00_scope.md R6 that the source or a decision fixes, as their binary32 bit
patterns (95_test_vectors.md, conventions). -/

namespace Sys2Proof.Machine

/-- `CODE_MAX = RES - 1` (R6, 30_encoding.md R83). -/
def codeMax : Nat := 1023

/-- `C1`, nearest to 23.4548121. -/
def c1 : F32 := 0x41BBA375

/-- `C2`, nearest to 1.19824556. -/
def c2 : F32 := 0x3F99601C

/-- `LUX_CEIL` = 999.0. -/
def luxCeil : F32 := 0x4479C000

/-- `ALPHA`, nearest to 0.95. -/
def alpha : F32 := 0x3F733333

/-- `BETA = f32sub(1.0, ALPHA)`, not the literal 0.05 (41_filter_cascade.md R123, 90_conflicts.md C1). -/
def beta : F32 := 0x3D4CCCD0

/-- `NB0`, nearest to 1.5687. -/
def nb0 : F32 := 0x3FC8CB29

/-- `NB1`, nearest to -0.9391. -/
def nb1 : F32 := 0xBF7068DC

/-- `NA0`, nearest to 0.9695. -/
def na0 : F32 := 0x3F783127

/-- `NA1`, nearest to -1.5687. -/
def na1 : F32 := 0xBFC8CB29

/-- `NA2`, nearest to 0.9695. -/
def na2 : F32 := 0x3F783127

/-- `CRC_POLY` (43_framer_crc.md R190, 90_conflicts.md C4). -/
def crcPoly : Byte := 0x07

/-- `CRC_INIT`. -/
def crcInit : Byte := 0x00

end Sys2Proof.Machine
end

