-- ==== Sys2Proof/Machine/State.lean ====
section
/-! DEFINITION. The state of the machine as plain data: the registers of 10_state.md R36, the environment the spec
names (ports, time, observation), and the model's own inputs and local values; the reasons a step stops; reset. -/

namespace Sys2Proof.Machine

/-- The control state, one bit (10_state.md R21). -/
inductive Fsm where
  /-- INIT = 0: waiting for the startup prerequisite. -/
  | init
  /-- RUN = 1: the loop runs. -/
  | run
  deriving DecidableEq, Repr

/-- The input levels the environment holds (30_encoding.md R85). `now_ms` is computed from `State.time`. -/
structure Ports where
  /-- `rst`: while 1 the core is held in reset. -/
  rst : Bool
  /-- `adc_code`: the code the ADC offers; a breach of the 10-bit contract can be written (40_sample_convert.md
  R103). -/
  adcCode : Nat
  /-- `trig_in`, the level of the interrupt pin. -/
  trigIn : Bool
  /-- `diag_ready`, the startup prerequisite. -/
  diagReady : Bool
  /-- `tx_ready`: the sink takes a byte. -/
  txReady : Bool
  /-- The time source's next advance, less 1: a TIME step adds `advance + 1` (60_exceptions.md R214, log
  entry 13). -/
  advance : Nat
  deriving DecidableEq, Repr

/-- A diagnostic record (30_encoding.md R81). -/
structure DiagRecord where
  lux : F32
  smoothed : F32
  notch : F32
  fir : F32
  deriving DecidableEq, Repr

/-- What a run shows outside (10_state.md R38, 20_memory.md R60). -/
inductive Event where
  /-- The `adc_req` strobe: one conversion was taken and gave this code. -/
  | adcRead (code : Nat)
  /-- The `diag_valid` strobe with its record. -/
  | diag (record : DiagRecord)
  /-- A byte passed to the sink. -/
  | wire (byte : Byte)
  deriving DecidableEq, Repr

/-- The local values that pass between the sub-operations of one composite. They are the model's own, all zero or
empty between agent steps (log entry 9). -/
structure Locals where
  /-- POLL's `now` (42_scheduler_trigger.md R155). -/
  now : Millis
  /-- SAMPLE's code (40_sample_convert.md R100). -/
  code : Nat
  /-- SAMPLE's voltage (R100). -/
  v : F32
  /-- CONVERT's illuminance (R105). -/
  lux : F32
  /-- VALUE's integer (43_framer_crc.md R181). -/
  val : Nat
  /-- The byte sequence CRC8 reads (R182). -/
  msg : List Byte
  /-- CRC8's result. -/
  crc : Byte
  /-- The frame PACK_BIN or PACK_TXT returns (R184, R185). -/
  frame : List Byte
  deriving DecidableEq, Repr

/-- No local value in use. -/
def Locals.empty : Locals :=
  { now := 0, code := 0, v := 0, lux := 0, val := 0, msg := [], crc := 0, frame := [] }

/-- Why MAIN is stuck for ever, a state of its own beside a fault and a refusal (60_exceptions.md R201, R202). -/
inductive Stuck where
  /-- `adc_out_of_range`: SAMPLE was offered a code above 1023 and has no step (40_sample_convert.md R103). -/
  | adcOutOfRange
  deriving DecidableEq, Repr

/-- What the environment does next (log entry 2). -/
inductive Input where
  /-- The operation with this label is performed (30_encoding.md R70). An agent's step may be driven so; a
  sub-operation only where its composite has come to it (R71, `State.part`). -/
  | op (label : BitVec 5)
  /-- A stimulus word (30_encoding.md R88). -/
  | word (w : BitVec 48)
  /-- A scenario line (30_encoding.md R87). -/
  | line (l : Line)
  /-- The input ports take these levels (60_exceptions.md R220). -/
  | level (p : Ports)
  deriving DecidableEq, Repr

/-- The whole machine. -/
structure State where
  /-- The configuration; no step writes it (10_state.md R22). -/
  cfg : Config
  /-- The control state (R21). -/
  fsm : Fsm
  /-- The latest illuminance (R23). -/
  luxLast : F32
  /-- The exponential-filter accumulator (R25). -/
  smoothed : F32
  /-- Raw samples, newest first, `max(3, TAPS)` of them (R24). -/
  rawHist : List F32
  /-- Notch outputs, newest first, two of them (R26). -/
  notchHist : List F32
  /-- The latest notch output (R27). -/
  notchOut : F32
  /-- The latest FIR output (R27). -/
  firOut : F32
  /-- The time of the latest tick (R31). -/
  lastSampleTime : Millis
  /-- The time the transmit period counts from (R32). -/
  lastTransmitTime : Millis
  /-- The transmit request (R33). -/
  pendingSend : Bool
  /-- The transmit queue, head first (R35). -/
  txq : List Byte
  /-- The edge detector of `trig_in`: a rising edge seen and not yet served (30_encoding.md R86, 60_exceptions.md
  R216). -/
  edge : Bool
  /-- MAIN entered the hold and no EMIT has made the room since (42_scheduler_trigger.md R161, 60_exceptions.md R202,
  log entry 32). -/
  holding : Bool
  /-- MAIN is stuck; nothing lifts it (60_exceptions.md R202, log entry 11). -/
  stuck : Option Stuck
  /-- The environment's millisecond count T (R30). -/
  time : Nat
  /-- The input levels. -/
  ports : Ports
  /-- Local values of a composite (the model's own). -/
  locals : Locals
  /-- The sub-operation that the composite in progress has come to (the model's own, log entry 2). POLL is one step
  (20_memory.md R63), so between steps it is none, and no step sets it. -/
  part : Option Instr
  /-- The observation so far, oldest first (R38). -/
  events : List Event
  /-- What the environment does next (the model's own). -/
  inputs : List Input
  deriving DecidableEq, Repr

/-- Why the machine stops for ever. The core itself has no fault (60_exceptions.md R201), and a stuck state is none
(`Stuck`): only a State that is no state of the machine faults. -/
inductive Fault where
  /-- NOTCH or FIR, alone or in TICK or POLL, would index beyond a history file. The files never change length
  (10_state.md R28), so no state of the machine raises it (20_memory.md R51, log entry 10). Safe. -/
  | indexOutOfRange
  deriving DecidableEq, Repr

/-- Inputs and configurations the model gives no meaning (60_exceptions.md R201). -/
inductive Refusal where
  /-- An arm of exec that has no meaning yet. -/
  | notModelled (mnemonic : String)
  /-- The configuration is ill formed; raised by `step` before anything runs (00_scope.md R7). Safe. -/
  | illFormedConfig (check : ConfigError)
  /-- `reserved_label`: raised by `step` on a label or stimulus word R72 reserves (30_encoding.md). Safe. -/
  | reservedLabel
  /-- Raised by `step` on the label of a sub-operation where no composite has come to it (R71). Safe. -/
  | outsideComposite
  /-- `bad_stimulus`: raised by `step` on a word that encodes no line (R88). Safe. -/
  | badStimulus
  /-- `missing_code`: raised by `step` on a poll line without a code whose tick is due (R87). Safe. -/
  | missingCode
  /-- `poll_not_enabled`: raised by `step` on a poll line whose POLL is not enabled (R87). Safe. -/
  | pollNotEnabled
  /-- `emit_empty`: raised by `step` on an emit line with too few bytes queued (R87). Safe. -/
  | emitEmpty
  /-- A line's time lies before the machine's (60_exceptions.md R214, 93_implementation_defined.md I24); raised by
  `step`. Safe. -/
  | timeDecreases
  deriving DecidableEq, Repr

/-- All input levels low, the ADC offering 0, time advancing by 1 (DESIGN CHOICE, log entries 12 and 13). -/
def Ports.low : Ports :=
  { rst := false, adcCode := 0, trigIn := false, diagReady := false, txReady := false, advance := 0 }

/-- The machine with configuration `c` right after power-up: the registers as 10_state.md R36 and
70_reset_and_hazards.md R231 give them, T = 0, no input pending. -/
def State.powerUp (c : Config) : State where
  cfg := c
  fsm := .init
  luxLast := 0
  smoothed := 0
  rawHist := List.replicate c.histLen 0
  notchHist := [0, 0]
  notchOut := 0
  firOut := 0
  lastSampleTime := 0
  lastTransmitTime := 0
  pendingSend := false
  txq := []
  edge := false
  holding := false
  stuck := none
  time := 0
  ports := Ports.low
  locals := Locals.empty
  part := none
  events := []
  inputs := []

/-- The machine right after reset, with the spec's example configuration (log entry 4). -/
def State.reset : State := State.powerUp Config.specExample

end Sys2Proof.Machine
end

