-- ==== Sys2Proof/Machine/Ops.lean ====
section
/-! DEFINITION. The named operations over the state: sequencing, the environment primitives (00_scope.md R11), the
history files and the queue, the hold, reset, and taking the interrupt. There is no memory (20_memory.md R50). -/

namespace Sys2Proof.Machine

/-- What a step answers. -/
abbrev Result := Host.Outcome State Fault Refusal

/-- One part of a step after another; a part that stops ends the step (00_scope.md R9). -/
def andThen (r : Result) (f : State → Result) : Result :=
  match r with
  | .next s => f s
  | .fault e => .fault e
  | .refused e => .refused e

/-- MAIN may take steps: `rst` is 0 (70_reset_and_hazards.md R230) and MAIN is not stuck (60_exceptions.md R202). -/
def mainFree (s : State) : Bool := !s.ports.rst && s.stuck.isNone

/-- A part of a MAIN step where MAIN may take steps; else MAIN waits (DEDUCED, log entries 11 and 19). -/
def whenFree (s : State) (r : Result) : Result := if mainFree s then r else .next s

/-- `Now()` (00_scope.md R11, 10_state.md R30). -/
def nowOf (s : State) : Millis := BitVec.ofNat 32 s.time

/-- `elapsed(now, last)`, the difference modulo 2^TIME_W (00_scope.md R12). -/
def elapsed (now last : Millis) : Nat := (now - last).toNat

/-- An observable event happens (10_state.md R38). -/
def emitEvent (s : State) (e : Event) : State := { s with events := s.events ++ [e] }

/-- Push in front of a history file: the length stays, the oldest element is lost (41_filter_cascade.md R126). -/
def historyPush (hist : List F32) (x : F32) : List F32 := (x :: hist).take hist.length

/-- `TxQPush(b)`: a byte at the tail of the queue (43_framer_crc.md R186). -/
def txqPush (s : State) (b : Byte) : State := { s with txq := s.txq ++ [b] }

/-- A frame's bytes pushed in index order, byte 0 first (R186). -/
def txqPushAll (s : State) : List Byte → State
  | [] => s
  | b :: rest => txqPushAll (txqPush s b) rest

/-- The queue has room for a whole frame of `n` bytes (42_scheduler_trigger.md R161). -/
def txqRoom (s : State) (n : Nat) : Bool := decide (s.txq.length + n ≤ s.cfg.txqDepth)

/-- The transmit condition of the configuration's mode (42_scheduler_trigger.md R157, R158). -/
def transmitDue (s : State) (now : Millis) : Bool :=
  match s.cfg.txMode with
  | .timer => decide (s.cfg.txPeriod ≤ elapsed now s.lastTransmitTime)
  | .irq => s.pendingSend && decide (s.cfg.txPeriod ≤ elapsed now s.lastTransmitTime)

/-- The hold: MAIN met the transmit condition without room for the frame, and there is still no room
(42_scheduler_trigger.md R161). `holding` keeps it when the condition itself goes away (60_exceptions.md R202: only EMIT
lifts it; DEDUCED, log entry 32). -/
def held (s : State) : Bool :=
  s.fsm == .run && (s.holding || transmitDue s (nowOf s)) && !txqRoom s (frameLen s.cfg.frameMode)

/-- T takes a later value (60_exceptions.md R214). A hold stays one, also where the elapsed time wraps (log entry 32). -/
def advanceTo (t : Nat) (s : State) : State := { s with time := t, holding := held s }

/-- After bytes have left the queue the hold ends once the whole frame has room (42_scheduler_trigger.md R161). -/
def releaseHold (s : State) : State :=
  { s with holding := s.holding && !txqRoom s (frameLen s.cfg.frameMode) }

/-- MAIN's conversion was offered a code above 1023: it has no step, and nothing else changes (40_sample_convert.md
R103, log entry 11). -/
def stickMain (s : State) : State := { s with stuck := some .adcOutOfRange }

/-- A part that takes a conversion, where the code keeps the contract; else MAIN is stuck (R103). -/
def withConversion (s : State) (r : Result) : Result :=
  if codeMax < s.ports.adcCode then .next (stickMain s) else r

/-- `tx_valid`: the queue is not empty (30_encoding.md R85). -/
def txValid (s : State) : Bool := !s.txq.isEmpty

/-- `tx_data`: the byte at the head of the queue (R85). -/
def txData (s : State) : Option Byte := s.txq.head?

/-- RESET's writes (42_scheduler_trigger.md R150). T, the ports, the observation and what the environment does next
are not the core's and stay, and nothing lifts a stuck MAIN (log entry 11); an edge not yet served is dropped, since INIT remembers none (R165, log entry 18). -/
def resetCore (s : State) : State :=
  { s with
    fsm := .init
    luxLast := 0
    smoothed := 0
    rawHist := List.replicate s.cfg.histLen 0
    notchHist := [0, 0]
    notchOut := 0
    firOut := 0
    lastSampleTime := 0
    lastTransmitTime := 0
    pendingSend := false
    txq := []
    edge := false
    holding := false
    locals := Locals.empty }

/-- Taking the interrupt (42_scheduler_trigger.md R166, 60_exceptions.md R209): it saves nothing, has no vector and
changes no mode; the handler arms the transmit request, restarts the transmit timer with its own `Now()`, and the
edge is served (60_exceptions.md R207). There is no return operation: MAIN's next step is what it would have been
(R210), so a hold stays one. -/
def takeTrigger (s : State) : State :=
  { s with pendingSend := true, lastTransmitTime := nowOf s, edge := false, holding := held s }

/-- The edge detector at a change of `trig_in` to the level `new`: a 0 to 1 transition seen in RUN, in IRQ mode and
out of reset is remembered until its TRIG; all others are not (30_encoding.md R86, 42_scheduler_trigger.md R165). -/
def edgeAfter (s : State) (new : Bool) : Bool :=
  s.edge || (new && !s.ports.trigIn && s.fsm == .run && s.cfg.txMode == .irq && !s.ports.rst)

/-- The input ports take the levels `p`. Rising `trig_in` is an edge; `rst` at 1 performs RESET
(70_reset_and_hazards.md R230). -/
def setLevels (s : State) (p : Ports) : State :=
  let t := { s with ports := p, edge := edgeAfter s p.trigIn }
  if p.rst then resetCore t else t

/-- One rising edge of `trig_in`, from whatever level it has (30_encoding.md R87). -/
def risingEdge (s : State) : State :=
  let low := { s with ports := { s.ports with trigIn := false } }
  { low with ports := { low.ports with trigIn := true }, edge := edgeAfter low true }

/-- SAMPLE's and CONVERT's values are not kept beyond their tick (40_sample_convert.md R100, log entry 9). -/
def clearTickLocals (s : State) : State := { s with locals := { s.locals with code := 0, v := 0, lux := 0 } }

/-- A frame is constructed fresh per transmission and consumed at once (30_encoding.md R74, log entry 9). -/
def clearFrameLocals (s : State) : State :=
  { s with locals := { s.locals with val := 0, msg := [], crc := 0, frame := [] } }

/-- POLL's `now` ends with the POLL (42_scheduler_trigger.md R155, log entry 9). -/
def clearNow (s : State) : State := { s with locals := { s.locals with now := 0 } }

end Sys2Proof.Machine
end

