-- ==== Sys2Proof/Machine/Operands.lean ====
section
/-! DEFINITION. The operands of the operations: the register `VALUE_SRC` selects, a float as a frame value, the
CRC's shift, the bytes of the frames, the elements of the history files. -/

namespace Sys2Proof.Machine

/-- SAMPLE's voltage, the product first and then the quotient (40_sample_convert.md R101). -/
def sampleVoltage (c : Config) (code : Nat) : F32 := f32div (f32mul (i2f code) c.vsupply) (i2f codeMax)

/-- The raw formula `C1 * EXPF(C2 * v)` (40_sample_convert.md R105, R110). -/
def rawLux (c : Config) (v : F32) : F32 := f32mul c1 (expf c.expf (f32mul c2 v))

/-- The clamp to `LUX_CEIL` by the ordered comparison (R105, R107). -/
def clampLux (raw : F32) : F32 := if f32gt raw luxCeil then luxCeil else raw

/-- EWMA's new accumulator: both products and the sum rounded on their own (41_filter_cascade.md R124). -/
def ewmaNext (smoothed lux : F32) : F32 := f32add (f32mul alpha smoothed) (f32mul beta lux)

/-- NOTCH's sum, left to right as the formula is written (41_filter_cascade.md R128). -/
def notchSum (n0 n1 r0 r1 r2 : F32) : F32 :=
  f32add (f32add (f32add (f32add (f32mul nb0 n0) (f32mul nb1 n1)) (f32mul na0 r0)) (f32mul na1 r1)) (f32mul na2 r2)

/-- FIR's sum on from the accumulator `acc`, ascending index, each product and each sum rounded
(41_filter_cascade.md R131). -/
def firSum (acc : F32) : List F32 → List F32 → F32
  | x :: hist, w :: weights => firSum (f32add acc (f32mul x w)) hist weights
  | [], _ | _, [] => acc

/-- The register `VALUE_SRC` selects (43_framer_crc.md R181). -/
def selectedOutput (s : State) : F32 :=
  match s.cfg.valueSrc with
  | .lux => s.luxLast
  | .smoothed => s.smoothed
  | .notch => s.notchOut
  | .fir => s.firOut

/-- The largest value a frame carries: 12 bits or 3 decimal digits (R181). -/
def frameValueMax : FrameMode → Nat
  | .binary => 4095
  | .text => 999

/-- A float as the frame's integer: truncated, then saturated (R181). -/
def frameValue (mode : FrameMode) (x : F32) : Nat :=
  let hi := frameValueMax mode
  if f32IsNaN x then 0
  else if f32IsInf x then (if f32Sign x then 0 else hi)
  else (max 0 (min (hi : Int) (f32Trunc x))).toNat

/-- One shift of the CRC register: the polynomial is XORed in when bit 7 was set before it (43_framer_crc.md
R182). -/
def crcShift (crc : Byte) : Byte := if crc.msb then (crc <<< 1) ^^^ crcPoly else crc <<< 1

/-- The register after `n` shifts. -/
def crcShifts : Nat → Byte → Byte
  | 0, crc => crc
  | n + 1, crc => crcShifts n (crcShift crc)

/-- The CRC register after a byte sequence, from `crc` on: XOR the byte in, then 8 shifts (R182). -/
def crcUpdate (crc : Byte) : List Byte → Byte
  | [] => crc
  | d :: rest => crcUpdate (crcShifts 8 (crc ^^^ d)) rest

/-- CRC8 of a byte sequence; there is no final XOR (R182). -/
def crc8Of (d : List Byte) : Byte := crcUpdate crcInit d

/-- Bytes 0 and 1 of the binary frame (43_framer_crc.md R184, 30_encoding.md R75). -/
def binHead (sid val : Nat) : List Byte :=
  [BitVec.ofNat 8 (((sid &&& 0xF) <<< 4) ||| ((val >>> 8) &&& 0xF)), BitVec.ofNat 8 (val &&& 0xFF)]

/-- The receiver's station and value of a binary frame's first two bytes (30_encoding.md R77). -/
def binUnpack (b0 b1 : Byte) : Nat × Nat :=
  (b0.toNat >>> 4, ((b0.toNat &&& 0xF) <<< 8) ||| b1.toNat)

/-- The receiver's check of a binary frame (R77). -/
def binCheck (b0 b1 b2 : Byte) : Bool := b2 == crc8Of [b0, b1]

/-- The ASCII digit of `k` (43_framer_crc.md R185). -/
def asciiDigit (k : Nat) : Byte := BitVec.ofNat 8 (0x30 + k)

/-- The eleven bytes of the text frame (R185, 30_encoding.md R78). -/
def txtFrame (sid val : Nat) : List Byte :=
  [0x41, asciiDigit (sid / 10), asciiDigit (sid % 10), 0x48,
    asciiDigit (val / 100), asciiDigit (val / 10 % 10), asciiDigit (val % 10), 0x43, 0x30, 0x30, 0x21]

/-- The four latest values (42_scheduler_trigger.md R171). -/
def diagRecord (s : State) : DiagRecord :=
  { lux := s.luxLast, smoothed := s.smoothed, notch := s.notchOut, fir := s.firOut }

/-- The external formatter's rendering of a record on the diagnostic link, by the OPEN `FMT3`; informative
(30_encoding.md R82). -/
def renderDiag (r : DiagRecord) : List Byte :=
  [0x24] ++ Config.fmt3 r.lux ++ [0x20] ++ Config.fmt3 r.smoothed ++ [0x20] ++ Config.fmt3 r.notch ++ [0x20]
    ++ Config.fmt3 r.fir ++ [0x3B]

end Sys2Proof.Machine
end

