-- ==== Sys2Proof/Machine/Flags.lean ====
section
/-! DEFINITION. The conditions under which the agents' steps are enabled. The core has one status flag,
`pendingSend` (10_state.md R33), and no numeric flags (60_exceptions.md R204). -/

namespace Sys2Proof.Machine

/-- The sampling condition: the sample period has elapsed (42_scheduler_trigger.md R153). -/
def sampleDue (s : State) (now : Millis) : Bool := decide (s.cfg.samplePeriod ≤ elapsed now s.lastSampleTime)

/-- START is enabled (R151; 70_reset_and_hazards.md R230 for `rst`). -/
def startEnabled (s : State) : Bool := mainFree s && s.fsm == .init && s.ports.diagReady

/-- POLL is enabled (R152, R161). -/
def pollEnabled (s : State) : Bool := mainFree s && s.fsm == .run && !held s

/-- TRIG is enabled (R165, 60_exceptions.md R206). -/
def trigEnabled (s : State) : Bool := !s.ports.rst && s.edge && s.fsm == .run && s.cfg.txMode == .irq

/-- EMIT is enabled (43_framer_crc.md R187). -/
def emitEnabled (s : State) : Bool := !s.ports.rst && txValid s && s.ports.txReady

end Sys2Proof.Machine
end

