-- ==== Sys2Proof/Machine/Datapath.lean ====
section
/-! DEFINITION. The tick datapath, class 01 of the label table: SAMPLE, CONVERT, EWMA, HPUSH, NOTCH, FIR and TICK
(40_sample_convert.md, 41_filter_cascade.md). An operation's value for the next one passes through `State.locals`. -/

namespace Sys2Proof.Machine

/-- SAMPLE of a code in range: one ADC read and its voltage (40_sample_convert.md R101, R104). -/
def sampleOp (s : State) : State :=
  let code := s.ports.adcCode
  emitEvent { s with locals := { s.locals with code := code, v := sampleVoltage s.cfg code } } (.adcRead code)

/-- CONVERT: the clamped illuminance, kept in `luxLast` (R105). -/
def convertOp (s : State) : State :=
  let lux := clampLux (rawLux s.cfg s.locals.v)
  { s with luxLast := lux, locals := { s.locals with lux := lux } }

/-- EWMA (41_filter_cascade.md R124). -/
def ewmaOp (s : State) : State := { s with smoothed := ewmaNext s.smoothed s.locals.lux }

/-- HPUSH (R126). -/
def hpushOp (s : State) : State := { s with rawHist := historyPush s.rawHist s.locals.lux }

/-- NOTCH: reads both history files, then pushes its output (R128). -/
def notchOp (s : State) : Result :=
  match s.notchHist, s.rawHist with
  | n0 :: n1 :: _, r0 :: r1 :: r2 :: _ =>
    let acc := notchSum n0 n1 r0 r1 r2
    .next { s with notchOut := acc, notchHist := historyPush s.notchHist acc }
  | _, _ => .fault .indexOutOfRange

/-- FIR: the weighted sum of the first TAPS samples, from +0.0 (R131). -/
def firOp (s : State) : Result :=
  if s.rawHist.length < s.cfg.taps then .fault .indexOutOfRange
  else .next { s with firOut := firSum 0 s.rawHist s.cfg.firW }

/-- TICK of a code in range: the six stages in their fixed order (R120, R121). -/
def tickOp (s : State) : Result :=
  andThen (notchOp (hpushOp (ewmaOp (convertOp (sampleOp s))))) fun s1 =>
  andThen (firOp s1) fun s2 =>
  .next (clearTickLocals s2)

/-- The meaning of SAMPLE: a code outside the contract has no step (R103). -/
def execSample (s : State) : Result := whenFree s (withConversion s (.next (sampleOp s)))

/-- The meaning of CONVERT. -/
def execConvert (s : State) : Result := whenFree s (.next (convertOp s))

/-- The meaning of EWMA. -/
def execEwma (s : State) : Result := whenFree s (.next (ewmaOp s))

/-- The meaning of HPUSH. -/
def execHpush (s : State) : Result := whenFree s (.next (hpushOp s))

/-- The meaning of NOTCH. -/
def execNotch (s : State) : Result := whenFree s (notchOp s)

/-- The meaning of FIR. -/
def execFir (s : State) : Result := whenFree s (firOp s)

/-- The meaning of TICK: with its SAMPLE it is stuck on a code outside the contract (R103). -/
def execTick (s : State) : Result := whenFree s (withConversion s (tickOp s))

end Sys2Proof.Machine
end

