-- ==== Sys2Proof/Machine/Transmit.lean ====
section
/-! DEFINITION. The transmit datapath, class 10 of the label table: DIAG, VALUE, CRC8, PACK_BIN, PACK_TXT and XMIT
(42_scheduler_trigger.md R160, R171; 43_framer_crc.md R181 to R186). -/

namespace Sys2Proof.Machine

/-- DIAG: the record of the four latest values (42_scheduler_trigger.md R171). -/
def diagOp (s : State) : State := emitEvent s (.diag (diagRecord s))

/-- VALUE: the selected output as the frame's integer (43_framer_crc.md R181). -/
def valueOp (s : State) : State :=
  { s with locals := { s.locals with val := frameValue s.cfg.frameMode (selectedOutput s) } }

/-- CRC8 of the local byte sequence (R182). -/
def crc8Op (s : State) : State := { s with locals := { s.locals with crc := crc8Of s.locals.msg } }

/-- PACK_BIN: the two head bytes, then their CRC (R184). -/
def packBinOp (s : State) : State :=
  let head := binHead s.cfg.stationId s.locals.val
  let s1 := crc8Op { s with locals := { s.locals with msg := head } }
  { s1 with locals := { s1.locals with frame := head ++ [s1.locals.crc] } }

/-- PACK_TXT (R185). -/
def packTxtOp (s : State) : State :=
  { s with locals := { s.locals with frame := txtFrame s.cfg.stationId s.locals.val } }

/-- The frame of the configuration's variant (43_framer_crc.md R180). -/
def packOp (s : State) : State :=
  match s.cfg.frameMode with
  | .binary => packBinOp s
  | .text => packTxtOp s

/-- XMIT: the record, the value, the frame, its bytes queued, the condition cleared (42_scheduler_trigger.md R160).
`now` is the enclosing POLL's. -/
def xmitOp (s : State) : State :=
  let packed := packOp (valueOp (diagOp s))
  let queued := txqPushAll packed packed.locals.frame
  clearFrameLocals { queued with lastTransmitTime := s.locals.now, pendingSend := false }

/-- The meaning of DIAG. -/
def execDiag (s : State) : Result := whenFree s (.next (diagOp s))

/-- The meaning of VALUE. -/
def execValue (s : State) : Result := whenFree s (.next (valueOp s))

/-- The meaning of CRC8. -/
def execCrc8 (s : State) : Result := whenFree s (.next (crc8Op s))

/-- The meaning of PACK_BIN. -/
def execPackBin (s : State) : Result := whenFree s (.next (packBinOp s))

/-- The meaning of PACK_TXT. -/
def execPackTxt (s : State) : Result := whenFree s (.next (packTxtOp s))

/-- The meaning of XMIT. Taken alone it too waits for room for the whole frame (R161, log entry 26). -/
def execXmit (s : State) : Result :=
  whenFree s (if txqRoom s (frameLen s.cfg.frameMode) then .next (xmitOp s) else .next s)

end Sys2Proof.Machine
end

