-- ==== Sys2Proof/Machine/Agents.lean ====
section
/-! DEFINITION. The agents' own steps, class 00 of the label table: RESET, START, POLL, TRIG, EMIT and TIME
(42_scheduler_trigger.md, 43_framer_crc.md R187, 60_exceptions.md R214). A step that is not enabled is not taken: the
agent waits and the state stays (60_exceptions.md R202, log entry 1). -/

namespace Sys2Proof.Machine

/-- The meaning of RESET (42_scheduler_trigger.md R150). -/
def execReset (s : State) : Result := .next (resetCore s)

/-- The meaning of START: both timestamps are captured after the wait (R151). -/
def execStart (s : State) : Result :=
  if startEnabled s then
    .next { s with fsm := .run, lastSampleTime := nowOf s, lastTransmitTime := nowOf s }
  else .next s

/-- The sampling part of a POLL (R152, R153): the tick, then the POLL's own `now` as the time of the tick. -/
def pollSample (now : Millis) (s : State) : Result :=
  if sampleDue s now then andThen (tickOp s) fun t => .next { t with lastSampleTime := now } else .next s

/-- The transmit part of a POLL (R152, R156). -/
def pollTransmit (now : Millis) (s : State) : State := if transmitDue s now then xmitOp s else s

/-- A POLL that MAIN can take: the current time is read once (R155); the tick comes before the transmit (R156). -/
def pollOp (s : State) : Result :=
  let now := nowOf s
  andThen (pollSample now { s with locals := { s.locals with now := now } }) fun t =>
  .next (clearNow (pollTransmit now t))

/-- The meaning of POLL. One that would tick is stuck with its SAMPLE on a code outside the contract
(40_sample_convert.md R103). -/
def execPoll (s : State) : Result :=
  if !(pollEnabled s) then .next s
  else if sampleDue s (nowOf s) then withConversion s (pollOp s)
  else pollOp s

/-- The meaning of TRIG (R165, R166). -/
def execTrig (s : State) : Result := if trigEnabled s then .next (takeTrigger s) else .next s

/-- The meaning of EMIT: the head byte goes to the sink (43_framer_crc.md R187), and a hold ends with the room it makes
(42_scheduler_trigger.md R161). -/
def execEmit (s : State) : Result :=
  match s.txq with
  | [] => .next s
  | b :: rest => if emitEnabled s then .next (releaseHold (emitEvent { s with txq := rest } (.wire b))) else .next s

/-- The meaning of TIME: T advances by at least 1 (60_exceptions.md R214). -/
def execTime (s : State) : Result := .next (advanceTo (s.time + (s.ports.advance + 1)) s)

end Sys2Proof.Machine
end

