-- ==== Sys2Proof/Machine/Dispatch.lean ====
section
/-! DEFINITION. One arm per operation of the label table (30_encoding.md R71). -/

namespace Sys2Proof.Machine

/-- The operation `i` performed in the state `s`. -/
def exec (i : Instr) (s : State) : Host.Outcome State Fault Refusal :=
  match i with
  | .reset => Sys2Proof.Machine.execReset s
  | .start => Sys2Proof.Machine.execStart s
  | .poll => Sys2Proof.Machine.execPoll s
  | .trig => Sys2Proof.Machine.execTrig s
  | .emit => Sys2Proof.Machine.execEmit s
  | .time => Sys2Proof.Machine.execTime s
  | .tick => Sys2Proof.Machine.execTick s
  | .sample => Sys2Proof.Machine.execSample s
  | .convert => Sys2Proof.Machine.execConvert s
  | .ewma => Sys2Proof.Machine.execEwma s
  | .hpush => Sys2Proof.Machine.execHpush s
  | .notch => Sys2Proof.Machine.execNotch s
  | .fir => Sys2Proof.Machine.execFir s
  | .xmit => Sys2Proof.Machine.execXmit s
  | .value => Sys2Proof.Machine.execValue s
  | .crc8 => Sys2Proof.Machine.execCrc8 s
  | .packBin => Sys2Proof.Machine.execPackBin s
  | .packTxt => Sys2Proof.Machine.execPackTxt s
  | .diag => Sys2Proof.Machine.execDiag s

end Sys2Proof.Machine
end

