-- ==== Sys2Proof/Machine/Scenario.lean ====
section
/-! DEFINITION. What the environment drives: scenario lines (30_encoding.md R87), stimulus words (R88), operation
labels and port levels, and what the machine does when nothing is driven. -/

namespace Sys2Proof.Machine

/-- Between two lines TIME steps advance T to the next line's time; times never decrease (R87, 60_exceptions.md
R214, R220). -/
def atTime (t : Nat) (s : State) (f : State → Result) : Result :=
  if t < s.time then .refused .timeDecreases else f (advanceTo t s)

/-- `diag_ready` is seen (R87). -/
def raiseDiagReady (s : State) : State := { s with ports := { s.ports with diagReady := true } }

/-- The code the ADC gives if a tick fires (R87). -/
def offerCode (s : State) (c : Nat) : State := { s with ports := { s.ports with adcCode := c } }

/-- The sink is ready (R87: `tx_ready` is 1 when an emit line is applied, 95_test_vectors.md part 3; the level stays,
DESIGN CHOICE, log entry 16). -/
def raiseTxReady (s : State) : State := { s with ports := { s.ports with txReady := true } }

/-- A line put back in front of what the environment does next. -/
def thenLine (s : State) (l : Line) : State := { s with inputs := .line l :: s.inputs }

/-- One POLL of a scenario: it must be enabled, and a tick must have a code (R87). Where several refusals of R87 hold,
poll_not_enabled is named first (DESIGN CHOICE, log entry 25). A line may give a code above 1023, which no word carries:
the POLL is then stuck if it ticks (40_sample_convert.md R103) and otherwise takes no conversion (DESIGN CHOICE, log
entry 31). -/
def pollAt (s : State) (code : Option Nat) : Result :=
  if !(pollEnabled s) then .refused .pollNotEnabled
  else
    match code with
    | none => if sampleDue s (nowOf s) then .refused .missingCode else execPoll s
    | some c => execPoll (offerCode s c)

/-- A scenario line; the line itself has left the inputs. A range does its first POLL and leaves the rest, `emit n`
one EMIT and leaves the rest, so that a step of the machine holds at most one step of an agent besides TIME (log
entry 29). A start or trig line whose step is not enabled only changes the port (R87, log entry 15). A line
`emit n` with n above 2047, which no word carries, runs as every other (DESIGN CHOICE, log entry 30). -/
def applyLine (l : Line) (s : State) : Result :=
  match l with
  | .reset => execReset s
  | .start t => atTime t s fun s => execStart (raiseDiagReady s)
  | .poll t code => atTime t s fun s => pollAt s code
  | .pollRange t1 t2 code =>
    if t2 < t1 then .next s
    else if t1 = t2 then atTime t1 s fun s => pollAt s code
    else atTime t1 s fun s => pollAt (thenLine s (.pollRange (t1 + 1) t2 code)) code
  | .trig t => atTime t s fun s => execTrig (risingEdge s)
  | .emit 0 => .next s
  | .emit (n + 1) =>
    if s.txq.length < n + 1 then .refused .emitEmpty
    else execEmit (raiseTxReady (if n = 0 then s else thenLine s (.emit n)))

/-- The model's refusal for a decoder's. -/
def refusalOf : DecodeError → Refusal
  | .reservedLabel => .reservedLabel
  | .badStimulus => .badStimulus

/-- A label driven: an agent's step is taken on its own, a sub-operation only where its composite has come to it
(30_encoding.md R71). -/
def applyOp (i : Instr) (s : State) : Result :=
  match i.labelClass with
  | .agentStep => exec i s
  | .tickDatapath | .transmitDatapath =>
    if s.part = some i then exec i { s with part := none } else .refused .outsideComposite

/-- One input of the environment, which has left the list of inputs. The time of a word is recovered from the machine's
own T. After a line with a time that is the previous line's time of 30_encoding.md R88; for the first word of a scenario
the spec names no time to recover it from (DESIGN CHOICE, log entry 33). An input that makes a scenario ill formed is
refused at the step that reaches it, after the steps before it (DESIGN CHOICE, log entry 35). -/
def applyInput (x : Input) (s : State) : Result :=
  match x with
  | .op label =>
    match decodeLabel label with
    | .ok i => applyOp i s
    | .error e => .refused (refusalOf e)
  | .word w =>
    match decodeWord s.time w with
    | .ok l => applyLine l s
    | .error e => .refused (refusalOf e)
  | .line l => applyLine l s
  | .level p => .next (setLevels s p)

/-- The step taken when the environment drives none: an edge seen is served, else MAIN takes its step, else the sink
takes a byte; if none is enabled MAIN waits (60_exceptions.md R202, R208; DESIGN CHOICE, log entry 3). -/
def ownStep (s : State) : Instr :=
  if trigEnabled s then .trig
  else if startEnabled s then .start
  else if pollEnabled s then .poll
  else if emitEnabled s then .emit
  else if s.fsm == .init then .start
  else .poll

/-- One step of a machine whose configuration is well formed. -/
def runNext (s : State) : Result :=
  match s.inputs with
  | [] => exec (ownStep s) s
  | x :: rest => applyInput x { s with inputs := rest }

/-- A scenario: the `config` line and the lines after it (30_encoding.md R87). The machine that runs it starts as
right after power-up. -/
def State.ofScenario (c : Config) (lines : List Line) : State :=
  { State.powerUp c with inputs := lines.map .line }

/-- The same scenario as stimulus words (R88). -/
def State.ofWords (c : Config) (words : List (BitVec 48)) : State :=
  { State.powerUp c with inputs := words.map .word }

/-- The point at which the operation with this label is due: a sub-operation inside its composite, an agent's step
anywhere (30_encoding.md R71). -/
def partFor (s : State) (label : BitVec 5) : Option Instr :=
  match decodeLabel label with
  | .error _ => s.part
  | .ok i =>
    match i.labelClass with
    | .agentStep => s.part
    | .tickDatapath | .transmitDatapath => some i

/-- An operation label put in front of what the environment does next, at the point where it is due. -/
def pushLabel (s : State) (label : BitVec 5) : State :=
  { s with inputs := .op label :: s.inputs, part := partFor s label }

end Sys2Proof.Machine
end

