-- ==== Sys2Proof/Machine/Step.lean ====
section
/-! DEFINITION. One step of the machine. -/

namespace Sys2Proof.Machine

/-- An ill-formed configuration is refused by name before any step (00_scope.md R7); else the next input is
applied, or the machine takes a step of its own. -/
def step (s : State) : Host.Outcome State Fault Refusal :=
  match configError s.cfg with
  | some e => .refused (.illFormedConfig e)
  | none => runNext s

/-- `s` with the operation of a table row as its next input, so that the very next step performs it (log
entry 24). -/
def State.withFetchWord (s : State) (_nbits w : Nat) : State := pushLabel s (BitVec.ofNat 5 w)

end Sys2Proof.Machine
end

