-- ==== Sys2Proof/Safety.lean ====
section
/-! DEFINITION. The terms claims are made in: the machine's invariant, what an observation counts, and the
environments a claim speaks about. -/

namespace Sys2Proof.Safety

open Sys2Proof.Machine

/-- The value lies in `[+0.0, 999.0]`: patterns of values from +0.0 up are ordered as their values are. -/
abbrev InDisplayRange (x : F32) : Prop := x.toNat ≤ 0x4479C000

/-- The value lies in `[C1, 999.0]` (40_sample_convert.md R108). -/
abbrev InLuxRange (x : F32) : Prop := 0x41BBA375 ≤ x.toNat ∧ x.toNat ≤ 0x4479C000

/-- The history files have their lengths (10_state.md R24, R26, R28). -/
abbrev HistoryShape (s : State) : Prop := s.rawHist.length = s.cfg.histLen ∧ s.notchHist.length = 2

/-- The values of the filters that stay in range: every lux value and the accumulator in `[+0.0, 999.0]`
(10_state.md R29), the voltage from +0.0 up (40_sample_convert.md R102), the FIR output finite
(41_filter_cascade.md R134). -/
abbrev ValueRanges (s : State) : Prop :=
  InDisplayRange s.luxLast ∧ InDisplayRange s.smoothed ∧ (s.rawHist.all fun x => decide (InDisplayRange x)) = true
    ∧ InDisplayRange s.locals.lux ∧ s.locals.v.toNat ≤ infBits ∧ f32IsFinite s.firOut = true

/-- The transmit request and the edge detector exist only in IRQ mode and in RUN (10_state.md R33,
42_scheduler_trigger.md R165, R167). -/
abbrev TriggerShape (s : State) : Prop :=
  (s.pendingSend = true → s.cfg.txMode = .irq ∧ s.fsm = .run)
    ∧ (s.edge = true → s.cfg.txMode = .irq ∧ s.fsm = .run)

/-- MAIN may take steps: out of reset (70_reset_and_hazards.md R230) and not stuck (60_exceptions.md R202). -/
abbrev MainRuns (s : State) : Prop := s.ports.rst = false ∧ s.stuck = none

/-- The hold's mark is set only in RUN and while the queue lacks room for a frame (42_scheduler_trigger.md R161). -/
abbrev HoldShape (s : State) : Prop :=
  s.holding = true → s.fsm = .run ∧ s.cfg.txqDepth < s.txq.length + frameLen s.cfg.frameMode

/-- What holds of the machine in every state of every run; no composite is left in progress (20_memory.md R63). -/
abbrev Inv (s : State) : Prop :=
  configError s.cfg = none ∧ HistoryShape s ∧ s.txq.length ≤ s.cfg.txqDepth ∧ ValueRanges s ∧ TriggerShape s
    ∧ HoldShape s ∧ s.part = none ∧ (s.ports.rst = true → resetCore s = s)

/-- A quadratic form of the two latest notch outputs, in units of 2^-298, that the recursion without input shrinks by
the square of the poles' radius (41_filter_cascade.md R129, R130). -/
def notchEnergy (n0 n1 : F32) : Int :=
  10000 * f32Val n0 ^ 2 - 15687 * f32Val n0 * f32Val n1 + 9391 * f32Val n1 ^ 2

/-- The notch outputs are finite and their form is bounded. 2^16 is the model's bound: a coarser one than the 2230.8 of
R130, which is informative, and wide enough that inputs in [0, 999] and roundings keep it. -/
abbrev NotchBound (s : State) : Prop :=
  f32IsFinite s.notchOut = true ∧ s.notchHist.all f32IsFinite = true
    ∧ notchEnergy (s.notchHist.getD 0 0) (s.notchHist.getD 1 0) ≤ 10000 * (2 ^ 16 * 2 ^ 149) ^ 2

/-- No binary32 register of 10_state.md R36 holds a NaN or an infinity (10_state.md R37). -/
abbrev RegistersFinite (s : State) : Prop :=
  f32IsFinite s.luxLast = true ∧ f32IsFinite s.smoothed = true ∧ f32IsFinite s.notchOut = true
    ∧ f32IsFinite s.firOut = true ∧ s.rawHist.all f32IsFinite = true ∧ s.notchHist.all f32IsFinite = true

/-- The bytes an observation shows on the wire, in order. -/
def wireBytes (events : List Event) : List Byte :=
  events.filterMap fun e =>
    match e with
    | .wire b => some b
    | .adcRead _ => none
    | .diag _ => none

/-- How many conversions were taken: one per tick (40_sample_convert.md R104). -/
def adcReads (events : List Event) : Nat :=
  events.countP fun e =>
    match e with
    | .adcRead _ => true
    | .diag _ => false
    | .wire _ => false

/-- How many records were emitted: one per transmit (42_scheduler_trigger.md R171). -/
def diagRecords (events : List Event) : Nat :=
  events.countP fun e =>
    match e with
    | .diag _ => true
    | .adcRead _ => false
    | .wire _ => false

/-- Operations performed one after another. -/
def execAll : List Instr → State → Result
  | [], s => .next s
  | i :: rest, s => andThen (exec i s) (execAll rest)

/-- `n` EMIT steps. -/
def emits : Nat → State → Result
  | 0, s => .next s
  | n + 1, s => andThen (exec .emit s) (emits n)

/-- One millisecond of the environment of 42_scheduler_trigger.md R164: a TIME step, a POLL, and the sink taking
every byte, so that no hold arises. -/
def millisecond (s : State) : Result :=
  andThen (exec .time s) fun t => andThen (exec .poll t) fun u => emits u.txq.length u

/-- `n` such milliseconds. -/
def milliseconds : Nat → State → Result
  | 0, s => .next s
  | n + 1, s => andThen (millisecond s) (milliseconds n)

/-- The lines of a scenario that can be written as stimulus words from the time `prev` on: well formed, every poll
with its code, times that never decrease, and no gap of 2^32 ms or more between two lines (30_encoding.md R88). -/
def encodableFrom (prev : Nat) : List Line → Prop
  | [] => True
  | l :: rest =>
    l.wellFormed = true ∧ encodableFrom (l.timeAfter prev) rest
      ∧ match l with
        | .reset => True
        | .start t => prev ≤ t ∧ t < prev + 2 ^ 32
        | .poll t code => prev ≤ t ∧ t < prev + 2 ^ 32 ∧ code.isSome = true
        | .pollRange t1 _ code => prev ≤ t1 ∧ t1 < prev + 2 ^ 32 ∧ code.isSome = true
        | .trig t => prev ≤ t ∧ t < prev + 2 ^ 32
        | .emit _ => True

end Sys2Proof.Safety
end

