-- ==== Sys2Proof/Certificates/Slice0/Obligations.lean ====
section
/-! DEFINITION. The statements for the provers. Each says in its docstring which rule of spec/ it formalises. A
meaning whose step is not enabled waits (log entry 1); the statements about waiting say so. -/

open Sys2Proof Sys2Proof.Machine Sys2Proof.Safety

/-! ## Labels, stimulus words and scenario lines -/

/-- 30_encoding.md R71: the 19 rows of the label table, each label written out bit by bit. -/
def Obligations.LabelTableDecodes : Prop :=
  decodeLabel 0b00000#5 = .ok .reset ∧ decodeLabel 0b00001#5 = .ok .start ∧ decodeLabel 0b00010#5 = .ok .poll
    ∧ decodeLabel 0b00011#5 = .ok .trig ∧ decodeLabel 0b00100#5 = .ok .emit ∧ decodeLabel 0b00101#5 = .ok .time
    ∧ decodeLabel 0b01000#5 = .ok .tick ∧ decodeLabel 0b01001#5 = .ok .sample
    ∧ decodeLabel 0b01010#5 = .ok .convert ∧ decodeLabel 0b01011#5 = .ok .ewma
    ∧ decodeLabel 0b01100#5 = .ok .hpush ∧ decodeLabel 0b01101#5 = .ok .notch
    ∧ decodeLabel 0b01110#5 = .ok .fir ∧ decodeLabel 0b10000#5 = .ok .xmit
    ∧ decodeLabel 0b10001#5 = .ok .value ∧ decodeLabel 0b10010#5 = .ok .crc8
    ∧ decodeLabel 0b10011#5 = .ok .packBin ∧ decodeLabel 0b10100#5 = .ok .packTxt
    ∧ decodeLabel 0b10101#5 = .ok .diag

/-- 30_encoding.md R72: exactly the reserved labels are refused by the decoder, and a trace or a scenario that
contains one is refused as `reserved_label`. -/
def Obligations.ReservedLabelsAreRefused : Prop :=
  (∀ op : BitVec 5, decodeLabel op = .error .reservedLabel ↔
    op = 0x06 ∨ op = 0x07 ∨ op = 0x0F ∨ op = 0x16 ∨ op = 0x17 ∨ 0x18 ≤ op.toNat)
  ∧ (∀ (s : State) (op : BitVec 5) (rest : List Input), configError s.cfg = none → s.inputs = .op op :: rest →
      op = 0x06 ∨ op = 0x07 ∨ op = 0x0F ∨ op = 0x16 ∨ op = 0x17 ∨ 0x18 ≤ op.toNat →
      step s = .refused .reservedLabel)
  ∧ (∀ (s : State) (w : BitVec 48) (rest : List Input), configError s.cfg = none → s.inputs = .word w :: rest →
      (let op : BitVec 5 := w.extractLsb' 43 5
       op = 0x06 ∨ op = 0x07 ∨ op = 0x0F ∨ op = 0x16 ∨ op = 0x17 ∨ 0x18 ≤ op.toNat) →
      step s = .refused .reservedLabel)

/-- 30_encoding.md R88: a word whose label is assigned but no stimulus, or a poll code above 1023, is refused as
`bad_stimulus`. That the refusal comes at the word, after the steps before it, is the model's choice (log entry 35). -/
def Obligations.BadStimulusWordsAreRefused : Prop :=
  ∀ (s : State) (w : BitVec 48) (rest : List Input), configError s.cfg = none → s.inputs = .word w :: rest →
    (let op : BitVec 5 := w.extractLsb' 43 5
     op = 0x05 ∨ (0x08 ≤ op.toNat ∧ op.toNat ≤ 0x15 ∧ op ≠ 0x0F)
      ∨ (op = 0x02 ∧ 1023 < (w.extractLsb' 32 11 : BitVec 11).toNat)) →
    step s = .refused .badStimulus

/-- 30_encoding.md R88: decoding the words of a scenario gives its lines back, ranges expanded and times recovered,
for every scenario whose lines can be encoded. That a reset or emit line, which has no time, leaves the time the next
word is recovered from is DEDUCED (log entry 33). Polls without a code are left out: R88 has no word for them (log entry
21). -/
def Obligations.ScenarioDecodesAfterEncode : Prop :=
  ∀ (prev : Nat) (lines : List Line), encodableFrom prev lines →
    decodeWords prev (lines.flatMap encodeLine) = .ok (lines.flatMap Line.expand)

/-- Model's reading of 30_encoding.md R88 (log entry 14): no bit of an accepted stimulus word is ignored. The
encoding of the decoded line is the word itself. -/
def Obligations.StimulusWordKeepsEveryBit : Prop :=
  ∀ (prev : Nat) (w : BitVec 48) (l : Line), decodeWord prev w = .ok l →
    l.wellFormed = true ∧ encodeLine l = [w]

/-- 30_encoding.md R71: a step whose next input is a label performs an agent's step on its own, and a sub-operation
only where its composite has come to it; elsewhere it is refused. That labels are inputs, and the point a composite has
come to, are the model's (log entries 2 and 24), and so is that a refusal comes at the label, after the steps before it
(log entry 35). -/
def Obligations.StepPerformsTheLabelledOperation : Prop :=
  (∀ (s : State) (label : BitVec 5) (rest : List Input) (i : Instr), configError s.cfg = none →
    s.inputs = .op label :: rest → decodeLabel label = .ok i → i.wellFormed = true →
    (i.labelClass = .agentStep → step s = exec i { s with inputs := rest })
    ∧ (i.labelClass ≠ .agentStep → s.part = some i → step s = exec i { s with inputs := rest, part := none })
    ∧ (i.labelClass ≠ .agentStep → s.part ≠ some i → step s = .refused .outsideComposite))
  ∧ (∀ (s : State) (nbits w : Nat) (i : Instr), configError s.cfg = none → s.part = none →
    decodeTableWord nbits w = some i → step (s.withFetchWord nbits w) = exec i s)

/-- 30_encoding.md R87, R88: a step on a stimulus word is a step on the line it decodes to, its time recovered from
the machine's. That this is so for a scenario's first word too, which has no previous line, is the model's choice (log
entry 33). -/
def Obligations.StepAppliesTheDecodedWord : Prop :=
  ∀ (s : State) (w : BitVec 48) (rest : List Input) (l : Line), configError s.cfg = none →
    s.inputs = .word w :: rest → decodeWord s.time w = .ok l →
    step s = step { s with inputs := .line l :: rest }

/-- 30_encoding.md R87: what a poll line does. Times that decrease, a POLL that is not enabled and a tick without a
code are refused; else T moves to the line's time and the POLL runs, with the line's code at the ADC. The model's
choices in it: which refusal is named where several hold (log entry 25), the code left at the ADC (log entry 16), TIME
merged into the line's step (log entry 29), that a line with a code above 1023 runs (log entry 31), that a hold
stays one while T moves (log entry 32), that a stuck MAIN's poll lines are refused as poll_not_enabled (log entry 11), and
that a refusal comes at the line, after the steps before it (log entry 35). -/
def Obligations.PollLineRunsOnePoll : Prop :=
  ∀ (s : State) (t : Nat) (code : Option Nat) (rest : List Input), configError s.cfg = none →
    s.inputs = .line (.poll t code) :: rest →
    let at' := { s with inputs := rest, time := t, holding := held s }
    (t < s.time → step s = .refused .timeDecreases)
    ∧ (s.time ≤ t → pollEnabled at' = false → step s = .refused .pollNotEnabled)
    ∧ (s.time ≤ t → pollEnabled at' = true → code = none → sampleDue at' (nowOf at') = true →
        step s = .refused .missingCode)
    ∧ (s.time ≤ t → pollEnabled at' = true → code = none → sampleDue at' (nowOf at') = false →
        step s = exec .poll at')
    ∧ (∀ c, s.time ≤ t → pollEnabled at' = true → code = some c →
        step s = exec .poll { at' with ports := { at'.ports with adcCode := c } })

/-- 30_encoding.md R87: what the other lines do: reset; start and trig at their times, with the port they speak
about; a range as its first POLL and the rest of the range; emit as one EMIT and the rest, refused when the queue
holds too few bytes. emit 0 and a range that ends before it begins do nothing (log entry 29). The levels the lines
leave (log entries 15 and 16), TIME merged into the line's step (log entry 29) and a hold that stays one (log entry 32)
are the model's; so are the one-bit edge detector, in which an edge merges with one not yet served (DEDUCED, log entry 18),
that emit lines of any length and polls of any code run (log entries 30 and 31), and that a refusal comes at the line,
after the steps before it (log entry 35). -/
def Obligations.OtherLinesRunTheirSteps : Prop :=
  ∀ (s : State) (rest : List Input), configError s.cfg = none →
    let after := fun (t : Nat) => { s with inputs := rest, time := t, holding := held s }
    (s.inputs = .line .reset :: rest → step s = exec .reset { s with inputs := rest })
    ∧ (∀ t, s.inputs = .line (.start t) :: rest → s.time ≤ t →
        step s = exec .start { after t with ports := { s.ports with diagReady := true } })
    ∧ (∀ t, s.inputs = .line (.trig t) :: rest → s.time ≤ t →
        step s = exec .trig { after t with
          ports := { s.ports with trigIn := true }
          edge := s.edge || (s.fsm == .run && s.cfg.txMode == .irq && !s.ports.rst) })
    ∧ (∀ t, s.inputs = .line (.start t) :: rest ∨ s.inputs = .line (.trig t) :: rest → t < s.time →
        step s = .refused .timeDecreases)
    ∧ (∀ t1 t2 code, s.inputs = .line (.pollRange t1 t2 code) :: rest → t1 < t2 →
        step s = step { s with inputs := .line (.poll t1 code) :: .line (.pollRange (t1 + 1) t2 code) :: rest })
    ∧ (∀ t code, s.inputs = .line (.pollRange t t code) :: rest →
        step s = step { s with inputs := .line (.poll t code) :: rest })
    ∧ (∀ t1 t2 code, s.inputs = .line (.pollRange t1 t2 code) :: rest → t2 < t1 →
        step s = .next { s with inputs := rest })
    ∧ (s.inputs = .line (.emit 0) :: rest → step s = .next { s with inputs := rest })
    ∧ (∀ n, s.inputs = .line (.emit n) :: rest → s.txq.length < n → step s = .refused .emitEmpty)
    ∧ (∀ n, s.inputs = .line (.emit (n + 1)) :: rest → n + 1 ≤ s.txq.length →
        step s = exec .emit { s with
          inputs := if n = 0 then rest else .line (.emit n) :: rest
          ports := { s.ports with txReady := true } })

/-- 30_encoding.md R86, 42_scheduler_trigger.md R165, 70_reset_and_hazards.md R230: a change of the input levels. A
0 to 1 transition of trig_in is remembered only in RUN, in IRQ mode and out of reset; other changes are no edge; rst
at 1 performs RESET. That the edge detector is one bit, so that an edge seen before the last one is served merges with
it, is the model's deduction (log entry 18). -/
def Obligations.LevelChangesSetEdgeAndReset : Prop :=
  ∀ (s : State) (p : Ports) (rest : List Input), configError s.cfg = none → s.inputs = .level p :: rest →
    (p.rst = true → step s = exec .reset { s with inputs := rest, ports := p })
    ∧ (p.rst = false → s.ports.trigIn = false → p.trigIn = true → s.fsm = .run → s.cfg.txMode = .irq →
        s.ports.rst = false → step s = .next { s with inputs := rest, ports := p, edge := true })
    ∧ (p.rst = false →
        (s.ports.trigIn = true ∨ p.trigIn = false ∨ s.fsm = .init ∨ s.cfg.txMode = .timer ∨ s.ports.rst = true) →
        step s = .next { s with inputs := rest, ports := p })

/-- 00_scope.md R6, R7, 41_filter_cascade.md R134, 40_sample_convert.md R106: a step of a machine whose configuration
is ill formed is refused, and exactly then. 2^100 is 2^249 units of 2^-149. The clause for the `EXPF` table is the
model's (log entry 5). -/
def Obligations.IllFormedConfigurationsNeverRun : Prop :=
  ∀ s : State, (∃ e, step s = .refused (.illFormedConfig e)) ↔
    ¬ (1 ≤ s.cfg.firW.length
      ∧ (∀ w ∈ s.cfg.firW, f32IsFinite w = true)
      ∧ (f32IsFinite s.cfg.vsupply = true ∧ 0 < f32Val s.cfg.vsupply)
      ∧ s.cfg.stationId ≤ 15
      ∧ (1 ≤ s.cfg.samplePeriod ∧ s.cfg.samplePeriod ≤ 2 ^ 32 - 1)
      ∧ (1 ≤ s.cfg.txPeriod ∧ s.cfg.txPeriod ≤ 2 ^ 32 - 1)
      ∧ (11 ≤ s.cfg.txqDepth ∧ frameLen s.cfg.frameMode ≤ s.cfg.txqDepth)
      ∧ (s.cfg.firW.length ≤ 65536 ∧ ∀ w ∈ s.cfg.firW, f32Mag w ≤ 2 ^ 249)
      ∧ expFnOk s.cfg.expf = true)

/-! ## The agents' steps -/

/-- 42_scheduler_trigger.md R150: RESET, label 0x00, from any state, in any mode. T, the ports, the configuration and
the observation stay. What becomes of the edge detector, of the marks of the hold and of a stuck MAIN, and of the model's
own locals is not said here (log entries 9, 11, 18 and 32). That RESET leaves the stuck mark is in OutOfRangeCodeIsStuck
and OnlyTheseEventsChangeMode. -/
def Obligations.ResetClearsEveryRegister : Prop :=
  decodeLabel 0x00 = .ok .reset ∧ ∀ s : State, ∃ t, exec .reset s = .next t ∧ t =
    { s with
      fsm := .init, luxLast := 0, smoothed := 0, notchOut := 0, firOut := 0
      rawHist := List.replicate (max 3 s.cfg.firW.length) 0, notchHist := [0, 0]
      lastSampleTime := 0, lastTransmitTime := 0, pendingSend := false, txq := []
      edge := t.edge, holding := t.holding, stuck := t.stuck, locals := t.locals }

/-- 70_reset_and_hazards.md R231: the state after reset, of every configuration: every binary32 register and history
element +0.0, the flag 0, the queue empty, both timestamps 0, INIT, the interrupt disabled; RESET leads to it from
everywhere and State.reset is such a state. What RESET does to the edge detector, to the marks of the hold and of a stuck
MAIN, and to the model's own fields is not said here (log entries 2, 9, 11, 18 and 32). -/
def Obligations.PowerUpIsTheResetState : Prop :=
  (∀ c : Config, let s := State.powerUp c
    s.cfg = c ∧ s.fsm = .init ∧ s.luxLast = 0 ∧ s.smoothed = 0 ∧ s.notchOut = 0 ∧ s.firOut = 0
      ∧ s.rawHist.length = max 3 c.firW.length ∧ (∀ x ∈ s.rawHist, x = 0) ∧ s.notchHist = [0, 0]
      ∧ s.lastSampleTime = 0 ∧ s.lastTransmitTime = 0 ∧ s.pendingSend = false ∧ s.txq = []
      ∧ trigEnabled s = false
      ∧ ∀ u : State, u.cfg = c → ∃ t, exec .reset u = .next t
          ∧ t = { s with time := u.time, ports := u.ports, events := u.events, inputs := u.inputs,
                         edge := t.edge, holding := t.holding, stuck := t.stuck, part := t.part,
                         locals := t.locals })
  ∧ ∃ c, State.reset = State.powerUp c

/-- 42_scheduler_trigger.md R151: START, label 0x01, in INIT (out of reset, MAIN not stuck), with diag_ready 1. -/
def Obligations.StartCapturesTheTimestamps : Prop :=
  decodeLabel 0x01 = .ok .start ∧ ∀ s : State, MainRuns s → s.fsm = .init → s.ports.diagReady = true →
    exec .start s = .next
      { s with
        fsm := .run
        lastSampleTime := BitVec.ofNat 32 s.time, lastTransmitTime := BitVec.ofNat 32 s.time }

/-- 60_exceptions.md R202, 42_scheduler_trigger.md R161, 70_reset_and_hazards.md R230: where an agent's step is not
enabled it is not taken. MAIN waits in INIT, in the hold and when stuck, IRQ without an admitted edge, SINK without a
byte or a ready sink; all wait in reset, the parts of a MAIN step (log entry 19) and XMIT without room (log entry 26)
included. The model's in it: that waiting is a next state (log entry 1), that MAIN stuck is a mark under which its
operations wait (log entry 11), and that POLL waits on the mark of a hold whose transmit condition has gone away (DEDUCED,
log entry 32). -/
def Obligations.StepsNotEnabledWait : Prop :=
  ∀ s : State,
    (¬ MainRuns s ∨ s.fsm = .run ∨ s.ports.diagReady = false → exec .start s = .next s)
    ∧ (¬ MainRuns s ∨ s.fsm = .init → exec .poll s = .next s)
    ∧ (s.holding = true ∨ transmitDue s (nowOf s) = true →
        s.cfg.txqDepth < s.txq.length + frameLen s.cfg.frameMode → exec .poll s = .next s)
    ∧ (s.ports.rst = true ∨ s.edge = false ∨ s.fsm = .init ∨ s.cfg.txMode = .timer → exec .trig s = .next s)
    ∧ (s.ports.rst = true ∨ s.txq = [] ∨ s.ports.txReady = false → exec .emit s = .next s)
    ∧ (∀ i : Instr, i.labelClass ≠ .agentStep → ¬ MainRuns s → exec i s = .next s)
    ∧ (s.cfg.txqDepth < s.txq.length + frameLen s.cfg.frameMode → exec .xmit s = .next s)

/-- 42_scheduler_trigger.md R166, 60_exceptions.md R209: TRIG, label 0x03, the one interrupt, in RUN, in IRQ mode (and
out of reset), with an edge seen. It writes the flag and the timestamp, nothing is saved, and the edge does not outlive
its TRIG (60_exceptions.md R207). What becomes of the hold's mark is not said here (log entry 32). -/
def Obligations.TrigArmsAndRestartsTheTimer : Prop :=
  decodeLabel 0x03 = .ok .trig ∧ ∀ s : State, s.ports.rst = false → s.edge = true → s.fsm = .run → s.cfg.txMode = .irq →
    ∃ t, exec .trig s = .next t ∧ t =
      { s with pendingSend := true, lastTransmitTime := BitVec.ofNat 32 s.time, edge := false, holding := t.holding }

/-- 43_framer_crc.md R187: EMIT, label 0x04, takes the head of the queue to the wire. What becomes of the hold's mark is
not said here (log entry 32). -/
def Obligations.EmitSendsTheHeadByte : Prop :=
  decodeLabel 0x04 = .ok .emit ∧ ∀ (s : State) (b : Byte) (rest : List Byte), s.ports.rst = false → s.txq = b :: rest → s.ports.txReady = true →
    ∃ t, exec .emit s = .next t ∧ t =
      { s with txq := rest, events := s.events ++ [.wire b], holding := t.holding }

/-- 60_exceptions.md R214: TIME, label 0x05, advances T by some d ≥ 1 and does nothing else, and the environment may
choose every such d (how it does so is the model's choice, log entry 13). A hold stays one (log entry 32). -/
def Obligations.TimeAdvancesByAtLeastOne : Prop :=
  decodeLabel 0x05 = .ok .time
  ∧ (∀ s : State, ∃ d : Nat, 1 ≤ d ∧ exec .time s = .next { s with time := s.time + d, holding := held s })
  ∧ ∀ (s : State) (d : Nat), 1 ≤ d → ∃ p : Ports, { p with advance := s.ports.advance } = s.ports
      ∧ exec .time { s with ports := p } = .next { s with ports := p, time := s.time + d, holding := held s }

/-- 42_scheduler_trigger.md R152, 30_encoding.md R73: an enabled POLL is, in this order and with one `now`: TICK and
the write of lastSampleTime when the sampling condition holds, then XMIT when the transmit condition holds. A POLL that
would tick on a code out of range is the subject of OutOfRangeCodeIsStuck. -/
def Obligations.PollTicksThenTransmits : Prop :=
  ∀ s : State, MainRuns s → s.fsm = .run →
    (sampleDue s (nowOf s) = true → s.ports.adcCode ≤ 1023) →
    (s.holding = true ∨ transmitDue s (nowOf s) = true →
      s.txq.length + frameLen s.cfg.frameMode ≤ s.cfg.txqDepth) →
    exec .poll s =
      andThen
        (if s.cfg.samplePeriod ≤ (nowOf s - s.lastSampleTime).toNat then
          andThen (exec .tick { s with locals := { s.locals with now := nowOf s } }) fun t =>
            .next { t with lastSampleTime := nowOf s }
        else .next { s with locals := { s.locals with now := nowOf s } })
        fun t =>
          andThen
            (if s.cfg.txPeriod ≤ (nowOf s - s.lastTransmitTime).toNat ∧ (s.cfg.txMode = .irq → s.pendingSend = true)
              then exec .xmit t else .next t)
            fun u => .next { u with locals := { u.locals with now := 0 } }

/-- 42_scheduler_trigger.md R152 to R158: where POLL completes, and what it leaves in the registers of the
scheduler: lastSampleTime and the tick's outputs change exactly when the sample period has elapsed, lastTransmitTime,
pendingSend and the queue exactly when the transmit condition holds; everything the core does not own stays. -/
def Obligations.PollCompletesAndMovesTheTimers : Prop :=
  ∀ s : State, MainRuns s → s.fsm = .run → HistoryShape s →
    (sampleDue s (nowOf s) = true → s.ports.adcCode ≤ 1023) →
    (s.holding = true ∨ transmitDue s (nowOf s) = true →
      s.txq.length + frameLen s.cfg.frameMode ≤ s.cfg.txqDepth) →
    ∃ t, exec .poll s = .next t
      ∧ t.lastSampleTime = (if sampleDue s (nowOf s) then nowOf s else s.lastSampleTime)
      ∧ t.lastTransmitTime = (if transmitDue s (nowOf s) then nowOf s else s.lastTransmitTime)
      ∧ t.pendingSend = (if transmitDue s (nowOf s) then false else s.pendingSend)
      ∧ t.txq.length = s.txq.length + (if transmitDue s (nowOf s) then frameLen s.cfg.frameMode else 0)
      ∧ s.txq <+: t.txq
      ∧ adcReads t.events = adcReads s.events + (if sampleDue s (nowOf s) then 1 else 0)
      ∧ diagRecords t.events = diagRecords s.events + (if transmitDue s (nowOf s) then 1 else 0)
      ∧ (sampleDue s (nowOf s) = false →
          t.luxLast = s.luxLast ∧ t.smoothed = s.smoothed ∧ t.rawHist = s.rawHist ∧ t.notchHist = s.notchHist
            ∧ t.notchOut = s.notchOut ∧ t.firOut = s.firOut)
      ∧ t.cfg = s.cfg ∧ t.fsm = s.fsm ∧ t.time = s.time ∧ t.ports = s.ports ∧ t.edge = s.edge
      ∧ t.holding = s.holding ∧ t.stuck = s.stuck ∧ t.part = s.part ∧ t.inputs = s.inputs

/-- 42_scheduler_trigger.md R158: in IRQ mode a POLL less than TX_PERIOD after lastTransmitTime sends no frame, emits no
record and leaves the request and lastTransmitTime, whatever ran before it. TRIG sets lastTransmitTime to the edge's
time (TrigArmsAndRestartsTheTimer), so with each POLL between them no frame leaves before TX_PERIOD after the latest
edge. -/
def Obligations.NoFrameBeforeThePeriodAfterAnEdge : Prop :=
  ∀ s u : State, s.ports.rst = false → s.fsm = .run → s.cfg.txMode = .irq →
    (nowOf s - s.lastTransmitTime).toNat < s.cfg.txPeriod → exec .poll s = .next u →
    u.txq = s.txq ∧ diagRecords u.events = diagRecords s.events ∧ u.pendingSend = s.pendingSend
      ∧ u.lastTransmitTime = s.lastTransmitTime

/-! ## The tick datapath -/

/-- 40_sample_convert.md R101, R104: SAMPLE takes one conversion and scales it, product before quotient. 00_scope.md
R10: i2f is exact up to 2^24; values are in units of 2^-149. -/
def Obligations.SampleScalesTheCode : Prop :=
  (∀ n : Nat, n ≤ 2 ^ 24 → f32IsFinite (i2f n) = true ∧ f32Val (i2f n) = n * 2 ^ 149)
  ∧ ∀ s : State, MainRuns s → s.ports.adcCode ≤ 1023 →
    exec .sample s = .next
      { s with
        locals := { s.locals with
          code := s.ports.adcCode
          v := f32div (f32mul (i2f s.ports.adcCode) s.cfg.vsupply) 0x447FC000 }
        events := s.events ++ [.adcRead s.ports.adcCode] }

/-- 40_sample_convert.md R103, 60_exceptions.md R202: a code outside [0, 1023] leaves SAMPLE, the TICK, and with it the
POLL that would tick, without a step: MAIN is stuck with the reason adc_out_of_range and nothing else changes. Nothing
lifts it: the mark stays under every operation, and MAIN's operations wait, while the other agents go on. That the stuck
state is a mark in the state, and that RESET keeps it, are the model's (log entry 11). -/
def Obligations.OutOfRangeCodeIsStuck : Prop :=
  (∀ s : State, MainRuns s → 1023 < s.ports.adcCode →
    let t := { s with stuck := some .adcOutOfRange }
    exec .sample s = .next t ∧ exec .tick s = .next t
      ∧ (pollEnabled s = true → sampleDue s (nowOf s) = true → exec .poll s = .next t))
  ∧ ∀ (i : Instr) (s t : State), s.stuck = some .adcOutOfRange → exec i s = .next t →
      t.stuck = some .adcOutOfRange
      ∧ (i ≠ .reset → i ≠ .trig → i ≠ .emit → i ≠ .time → t = s)

/-- 40_sample_convert.md R105, R107: CONVERT clamps C1 * EXPF(C2 * v) by the ordered comparison with 999.0. -/
def Obligations.ConvertClampsTheRawFormula : Prop :=
  ∀ s : State, MainRuns s →
    let raw := f32mul 0x41BBA375 (expf s.cfg.expf (f32mul 0x3F99601C s.locals.v))
    exec .convert s = .next
      (if f32gt raw 0x4479C000 then
        { s with luxLast := 0x4479C000, locals := { s.locals with lux := 0x4479C000 } }
      else { s with luxLast := raw, locals := { s.locals with lux := raw } })

/-- 41_filter_cascade.md R123, R124: EWMA with BETA = 1.0 - ALPHA. -/
def Obligations.EwmaUpdatesTheAccumulator : Prop :=
  f32sub 0x3F800000 0x3F733333 = 0x3D4CCCD0
  ∧ ∀ s : State, MainRuns s →
    exec .ewma s = .next
      { s with smoothed := f32add (f32mul 0x3F733333 s.smoothed) (f32mul 0x3D4CCCD0 s.locals.lux) }

/-- 41_filter_cascade.md R126: HPUSH moves every element one place and drops the oldest. -/
def Obligations.HpushShiftsTheHistory : Prop :=
  ∀ s : State, MainRuns s → s.rawHist ≠ [] →
    exec .hpush s = .next { s with rawHist := s.locals.lux :: s.rawHist.dropLast }

/-- 41_filter_cascade.md R128: NOTCH sums left to right and pushes its output. -/
def Obligations.NotchSumsAndPushes : Prop :=
  ∀ (s : State) (n0 n1 r0 r1 r2 : F32) (older : List F32), MainRuns s → s.notchHist = [n0, n1] →
    s.rawHist = r0 :: r1 :: r2 :: older →
    let acc0 := f32mul 0x3FC8CB29 n0
    let acc1 := f32add acc0 (f32mul 0xBF7068DC n1)
    let acc2 := f32add acc1 (f32mul 0x3F783127 r0)
    let acc3 := f32add acc2 (f32mul 0xBFC8CB29 r1)
    let acc4 := f32add acc3 (f32mul 0x3F783127 r2)
    exec .notch s = .next { s with notchOut := acc4, notchHist := [acc4, n0] }

/-- 41_filter_cascade.md R131: FIR sums the products of the first TAPS samples and weights, ascending, from +0.0. -/
def Obligations.FirSumsAscending : Prop :=
  ∀ s : State, MainRuns s → s.cfg.firW.length ≤ s.rawHist.length →
    exec .fir s = .next
      { s with
        firOut := (List.range s.cfg.firW.length).foldl
          (fun acc i => f32add acc (f32mul (s.rawHist.getD i 0) (s.cfg.firW.getD i 0))) 0 }

/-- 41_filter_cascade.md R120, R121: what one TICK leaves, every stage's operands spelled out: EWMA reads the old
accumulator, NOTCH the history after the push and its own outputs before its push, FIR the history after the push. -/
def Obligations.TickReadsWhatEachStageReads : Prop :=
  ∀ (s : State) (n0 n1 r0 r1 r2 : F32) (older : List F32), MainRuns s → s.ports.adcCode ≤ 1023 →
    s.notchHist = [n0, n1] → s.rawHist = r0 :: r1 :: r2 :: older → s.cfg.firW.length ≤ s.rawHist.length →
    let lux := clampLux (rawLux s.cfg (sampleVoltage s.cfg s.ports.adcCode))
    let hist := lux :: s.rawHist.dropLast
    let out := notchSum n0 n1 lux r0 r1
    exec .tick s = .next
      { s with
        luxLast := lux
        smoothed := ewmaNext s.smoothed lux
        rawHist := hist
        notchHist := [out, n0]
        notchOut := out
        firOut := firSum 0 hist s.cfg.firW
        locals := { s.locals with code := 0, v := 0, lux := 0 }
        events := s.events ++ [.adcRead s.ports.adcCode] }

/-! ## The transmit datapath -/

/-- 42_scheduler_trigger.md R171, 30_encoding.md R81: DIAG emits the four latest values and writes nothing. -/
def Obligations.DiagEmitsTheFourValues : Prop :=
  ∀ s : State, MainRuns s →
    exec .diag s = .next
      { s with events := s.events ++
          [.diag { lux := s.luxLast, smoothed := s.smoothed, notch := s.notchOut, fir := s.firOut }] }

/-- 43_framer_crc.md R181: VALUE truncates the selected output toward zero and saturates it. -/
def Obligations.ValueTruncatesAndSaturates : Prop :=
  ∀ s : State, MainRuns s →
    let x := match s.cfg.valueSrc with
      | .lux => s.luxLast
      | .smoothed => s.smoothed
      | .notch => s.notchOut
      | .fir => s.firOut
    let hi : Nat := match s.cfg.frameMode with
      | .binary => 4095
      | .text => 999
    ∃ n : Nat, exec .value s = .next { s with locals := { s.locals with val := n } }
      ∧ (f32IsNaN x = true → n = 0)
      ∧ (x = 0x7F800000 → n = hi)
      ∧ (x = 0xFF800000 → n = 0)
      ∧ (f32IsFinite x = true → f32Val x < 2 ^ 149 → n = 0)
      ∧ (f32IsFinite x = true → (hi : Int) * 2 ^ 149 ≤ f32Val x → n = hi)
      ∧ (f32IsFinite x = true → 0 ≤ f32Val x → f32Val x < (hi : Int) * 2 ^ 149 →
          (n : Int) * 2 ^ 149 ≤ f32Val x ∧ f32Val x < (n + 1 : Int) * 2 ^ 149)

/-- 43_framer_crc.md R182: CRC8 of the byte sequence, one bit at a time from the most significant: the register's
new value is its shift, with the polynomial XORed in when bit 7 was set. -/
def Obligations.Crc8IsTheBitSerialDivision : Prop :=
  ∀ s : State, MainRuns s →
    exec .crc8 s = .next
      { s with
        locals := { s.locals with
          crc := s.locals.msg.foldl
            (fun crc d => (List.range 8).foldl
              (fun c _ => if c.getLsbD 7 then (c <<< 1) ^^^ 0x07#8 else c <<< 1) (crc ^^^ d)) 0x00#8 } }

/-- 43_framer_crc.md R184, 30_encoding.md R75: PACK_BIN, for every station and value a frame can carry: station and
value bits 11:8 in byte 0, value bits 7:0 in byte 1, the CRC of both in byte 2. -/
def Obligations.PackBinLaysOutTheFrame : Prop :=
  ∀ s : State, MainRuns s → s.cfg.stationId ≤ 15 → s.locals.val ≤ 4095 →
    let b0 := BitVec.ofNat 8 (s.cfg.stationId * 16 + s.locals.val / 256)
    let b1 := BitVec.ofNat 8 (s.locals.val % 256)
    exec .packBin s = .next
      { s with locals := { s.locals with
          msg := [b0, b1], crc := crc8Of [b0, b1], frame := [b0, b1, crc8Of [b0, b1]] } }

/-- 43_framer_crc.md R185, 30_encoding.md R78, R79: PACK_TXT's eleven characters; for every station and value a frame
can carry the digits are ASCII digits that read back as the station and the value. -/
def Obligations.PackTxtWritesElevenCharacters : Prop :=
  ∀ s : State, MainRuns s → s.cfg.stationId ≤ 15 → s.locals.val ≤ 999 →
    ∃ st su vh vt vu : Byte,
      exec .packTxt s = .next
        { s with locals := { s.locals with
            frame := [0x41, st, su, 0x48, vh, vt, vu, 0x43, 0x30, 0x30, 0x21] } }
      ∧ (st = 0x30 ∨ st = 0x31)
      ∧ (∀ d ∈ [su, vh, vt, vu], 0x30 ≤ d.toNat ∧ d.toNat ≤ 0x39)
      ∧ (st.toNat - 0x30) * 10 + (su.toNat - 0x30) = s.cfg.stationId
      ∧ (vh.toNat - 0x30) * 100 + (vt.toNat - 0x30) * 10 + (vu.toNat - 0x30) = s.locals.val

/-- 42_scheduler_trigger.md R160, 43_framer_crc.md R186: XMIT, where the queue has room: the record, the frame of the
configured variant at the queue's tail, the condition cleared in both modes. -/
def Obligations.XmitQueuesOneFrame : Prop :=
  ∀ s : State, MainRuns s → s.txq.length + frameLen s.cfg.frameMode ≤ s.cfg.txqDepth →
    let val := frameValue s.cfg.frameMode (selectedOutput s)
    let frame := match s.cfg.frameMode with
      | .binary => binHead s.cfg.stationId val ++ [crc8Of (binHead s.cfg.stationId val)]
      | .text => txtFrame s.cfg.stationId val
    exec .xmit s = .next
      { s with
        txq := s.txq ++ frame
        lastTransmitTime := s.locals.now
        pendingSend := false
        locals := { s.locals with val := 0, msg := [], crc := 0, frame := [] }
        events := s.events ++
          [.diag { lux := s.luxLast, smoothed := s.smoothed, notch := s.notchOut, fir := s.firOut }] }

/-- 30_encoding.md R73: the composites expand in a fixed order. TICK, on a code in range, is its six operations
performed one after another; XMIT is DIAG, VALUE and the packing of its variant, then the enqueue. PACK_BIN is its two head bytes with the
result of CRC8 on them. After each its local values are gone (40_sample_convert.md R100, 30_encoding.md R74; the
model's locals, log entry 9). -/
def Obligations.CompositesExpandInFixedOrder : Prop :=
  ∀ s : State, MainRuns s →
    (s.ports.adcCode ≤ 1023 → exec .tick s =
      andThen (execAll [.sample, .convert, .ewma, .hpush, .notch, .fir] s) fun t =>
        .next { t with locals := { t.locals with code := 0, v := 0, lux := 0 } })
    ∧ (s.txq.length + frameLen s.cfg.frameMode ≤ s.cfg.txqDepth →
        exec .xmit s =
          andThen
            (execAll [.diag, .value, match s.cfg.frameMode with | .binary => .packBin | .text => .packTxt] s)
            fun t =>
            .next { t with
              txq := t.txq ++ t.locals.frame
              lastTransmitTime := s.locals.now
              pendingSend := false
              locals := { t.locals with val := 0, msg := [], crc := 0, frame := [] } })
    ∧ exec .packBin s =
        andThen (exec .crc8 { s with
          locals := { s.locals with msg := binHead s.cfg.stationId s.locals.val } }) fun t =>
          .next { t with locals := { t.locals with
            frame := binHead s.cfg.stationId s.locals.val ++ [t.locals.crc] } }

/-! ## Laws of the datapath -/

/-- 00_scope.md R10: f32add of finite values is the nearest binary32 value to the exact sum, ties to even, and an
infinity exactly when the sum rounds beyond the largest finite value (PRESUMED, log entry 8). Values are in units of
2^-149. -/
def Obligations.AdditionRoundsToNearestEven : Prop :=
  ∀ a b : F32, f32IsFinite a = true → f32IsFinite b = true →
    let total := f32Val a + f32Val b
    let r := f32add a b
    (f32IsFinite r = true ↔ total.natAbs < (2 ^ 25 - 1) * 2 ^ 252)
    ∧ (f32IsFinite r = true → ∀ c : F32, f32IsFinite c = true →
        (f32Val r - total).natAbs ≤ (f32Val c - total).natAbs
        ∧ ((f32Val r - total).natAbs = (f32Val c - total).natAbs →
            f32Val c = f32Val r ∨ r.toNat % 2 = 0))

/-- 00_scope.md R10: the same of f32mul; the exact product of two values is in units of 2^-298. -/
def Obligations.MultiplicationRoundsToNearestEven : Prop :=
  ∀ a b : F32, f32IsFinite a = true → f32IsFinite b = true →
    let product := f32Val a * f32Val b
    let r := f32mul a b
    (f32IsFinite r = true ↔ product.natAbs < (2 ^ 25 - 1) * 2 ^ 252 * 2 ^ 149)
    ∧ (f32IsFinite r = true → ∀ c : F32, f32IsFinite c = true →
        (f32Val r * 2 ^ 149 - product).natAbs ≤ (f32Val c * 2 ^ 149 - product).natAbs
        ∧ ((f32Val r * 2 ^ 149 - product).natAbs = (f32Val c * 2 ^ 149 - product).natAbs →
            f32Val c = f32Val r ∨ r.toNat % 2 = 0))

/-- 00_scope.md R10: the same of f32div by a divisor that is not 0; the quotient is compared after multiplication by
the divisor's magnitude. -/
def Obligations.DivisionRoundsToNearestEven : Prop :=
  ∀ a b : F32, f32IsFinite a = true → f32IsFinite b = true → f32Val b ≠ 0 →
    let dividend := f32Val a * 2 ^ 149
    let r := f32div a b
    (f32IsFinite r = true ↔ dividend.natAbs < (2 ^ 25 - 1) * 2 ^ 252 * (f32Val b).natAbs)
    ∧ (f32IsFinite r = true → ∀ c : F32, f32IsFinite c = true →
        (f32Val r * f32Val b - dividend).natAbs ≤ (f32Val c * f32Val b - dividend).natAbs
        ∧ ((f32Val r * f32Val b - dividend).natAbs = (f32Val c * f32Val b - dividend).natAbs →
            f32Val c = f32Val r ∨ r.toNat % 2 = 0))

/-- 40_sample_convert.md R106: the four properties of `EXPF`, of every well-formed configuration. -/
def Obligations.ExpfHasItsFourProperties : Prop :=
  ∀ c : Config, configError c = none →
    expf c.expf 0 = 0x3F800000
    ∧ (∀ x y : F32, x.toNat ≤ y.toNat → y.toNat ≤ 0x7F800000 → (expf c.expf x).toNat ≤ (expf c.expf y).toNat)
    ∧ (∀ x : F32, x.toNat ≤ 0x7F800000 →
        0x3F800000 ≤ (expf c.expf x).toNat ∧ (expf c.expf x).toNat ≤ 0x7F800000)
    ∧ (∀ x : F32, f32IsNaN x = false → f32IsNaN (expf c.expf x) = false)

/-- 40_sample_convert.md R102: the voltage is never negative, never a NaN, at most that of code 1023, and does not
fall as the code rises; code 0 gives +0.0 (R101). -/
def Obligations.VoltageRisesWithTheCode : Prop :=
  ∀ c : Config, configError c = none →
    sampleVoltage c 0 = 0
    ∧ (∀ k, k ≤ 1023 → (sampleVoltage c k).toNat ≤ 0x7F800000)
    ∧ ∀ j k, j ≤ k → k ≤ 1023 → (sampleVoltage c j).toNat ≤ (sampleVoltage c k).toNat

/-- 40_sample_convert.md R108: for every well-formed configuration and every code, lux lies in [C1, 999.0]; and
CONVERT keeps that for every voltage from +0.0 up. -/
def Obligations.LuxStaysBetweenC1AndTheCeiling : Prop :=
  ∀ c : Config, configError c = none →
    (∀ code, code ≤ 1023 → InLuxRange (clampLux (rawLux c (sampleVoltage c code))))
    ∧ (∀ v : F32, v.toNat ≤ 0x7F800000 → InLuxRange (clampLux (rawLux c v)))

/-- 40_sample_convert.md R110: for all voltages v ≥ 0, convert(v) ≤ 999, and it equals the raw formula where that is at
most 999. Values are in units of 2^-149, and -0.0 is among the voltages. -/
def Obligations.ClampLawOfConvert : Prop :=
  ∀ (c : Config) (v : F32), configError c = none → f32IsNaN v = false → 0 ≤ f32Val v →
    let raw := rawLux c v
    f32Val (clampLux raw) ≤ 999 * 2 ^ 149
    ∧ (f32Val raw ≤ 999 * 2 ^ 149 → clampLux raw = raw)
    ∧ (999 * 2 ^ 149 < f32Val raw → clampLux raw = 0x4479C000)

/-- 10_state.md R29: an EWMA step from a value in [0.0, 999.0] with an input in [0.0, 999.0] stays there; 100.0 and
999.0 fed to themselves are kept exactly (41_filter_cascade.md R124). -/
def Obligations.EwmaStaysInRange : Prop :=
  (∀ a x : F32, InDisplayRange a → InDisplayRange x → InDisplayRange (ewmaNext a x))
  ∧ ewmaNext 0x42C80000 0x42C80000 = 0x42C80000 ∧ ewmaNext 0x4479C000 0x4479C000 = 0x4479C000

/-- 41_filter_cascade.md R127: after any insertions a history is the inserted values newest first, then what it held,
cut to its length. -/
def Obligations.HistoryShiftLaw : Prop :=
  ∀ hist xs : List F32, xs.foldl historyPush hist = (xs.reverse ++ hist).take hist.length

/-- 41_filter_cascade.md R131: the FIR result is never -0.0. -/
def Obligations.FirNeverGivesNegativeZero : Prop :=
  ∀ hist weights : List F32, (∀ x ∈ hist, f32IsFinite x = true) → (∀ w ∈ weights, f32IsFinite w = true) →
    firSum 0 hist weights ≠ 0x80000000

/-- 41_filter_cascade.md R134: with bounded weights and samples in [0.0, 999.0] the FIR result is finite. -/
def Obligations.FirOutputIsFinite : Prop :=
  ∀ (c : Config) (hist : List F32), configError c = none → (∀ x ∈ hist, InDisplayRange x) →
    f32IsFinite (firSum 0 hist c.firW) = true

/-- 43_framer_crc.md R183: the CRC of two zero bytes is 0x00; a single bit flip in either byte of a two-byte message
changes it; CRC8 is deterministic and pure; the CRC is linear on sequences of equal length; the check value over ASCII
123456789 is 0xF4. -/
def Obligations.CrcLaws : Prop :=
  crc8Of [0x00, 0x00] = 0x00
  ∧ (∀ (b0 b1 : Byte) (k : Nat), k < 8 →
      crc8Of [b0 ^^^ (1#8 <<< k), b1] ≠ crc8Of [b0, b1] ∧ crc8Of [b0, b1 ^^^ (1#8 <<< k)] ≠ crc8Of [b0, b1])
  ∧ (∀ s u : State, MainRuns s → MainRuns u → s.locals.msg = u.locals.msg →
      ∃ s' u', exec .crc8 s = .next s' ∧ exec .crc8 u = .next u' ∧ s'.locals.crc = u'.locals.crc
        ∧ s'.locals.crc = crc8Of s.locals.msg ∧ s' = { s with locals := { s.locals with crc := s'.locals.crc } })
  ∧ (∀ a b : List Byte, a.length = b.length → crc8Of (List.zipWith (· ^^^ ·) a b) = crc8Of a ^^^ crc8Of b)
  ∧ crc8Of [0x31, 0x32, 0x33, 0x34, 0x35, 0x36, 0x37, 0x38, 0x39] = 0xF4

/-- 43_framer_crc.md R189, 30_encoding.md R77: packing and unpacking a binary frame gives station and value back, and
the receiver's check accepts exactly the CRC of the two bytes. -/
def Obligations.BinaryFrameRoundTrip : Prop :=
  ∀ sid val : Nat, sid ≤ 15 → val ≤ 4095 →
    ∃ b0 b1 : Byte, binHead sid val = [b0, b1] ∧ b0.toNat >>> 4 = sid
      ∧ ((b0.toNat &&& 0xF) <<< 8) ||| b1.toNat = val ∧ binUnpack b0 b1 = (sid, val)
      ∧ ∀ b2 : Byte, binCheck b0 b1 b2 = true ↔ b2 = crc8Of [b0, b1]

/-- 60_exceptions.md R215, 70_reset_and_hazards.md R237: the elapsed time is the true gap modulo 2^32, across any
number of wraps: exact below 2^32, 0 at exactly 2^32. -/
def Obligations.ElapsedIsTheGapModuloTheWrap : Prop :=
  ∀ last gap : Nat, elapsed (BitVec.ofNat 32 (last + gap)) (BitVec.ofNat 32 last) = gap % 2 ^ 32
    ∧ (gap < 2 ^ 32 → elapsed (BitVec.ofNat 32 (last + gap)) (BitVec.ofNat 32 last) = gap)
    ∧ elapsed (BitVec.ofNat 32 (last + 2 ^ 32)) (BitVec.ofNat 32 last) = 0

/-! ## Rules of the whole machine -/

/-- The invariant holds after power-up with every well-formed configuration, State.reset among them. -/
def Obligations.InvariantHoldsAtPowerUp : Prop :=
  (∀ c : Config, configError c = none → Inv (State.powerUp c)) ∧ Inv State.reset

/-- 10_state.md R28, R29, R33, R35, 30_encoding.md R71, 70_reset_and_hazards.md R230: every step keeps the invariant: history files keep
their lengths, the queue its bound, every lux value and the accumulator lie in [0.0, 999.0], the FIR output is
finite, the request exists only in IRQ mode and RUN, and while rst is 1 the core stays at its reset values. -/
def Obligations.EveryStepKeepsTheInvariant : Prop :=
  ∀ s t : State, Inv s → step s = .next t → Inv t

/-- 10_state.md R37, 60_exceptions.md R200: no step writes a NaN or an infinity into a register. The premise on the
notch history is an invariant of its own: it holds after power-up and every step keeps it. -/
def Obligations.NoStepWritesNaNOrInfinity : Prop :=
  (∀ c : Config, configError c = none → NotchBound (State.powerUp c))
  ∧ ∀ s t : State, Inv s → NotchBound s → step s = .next t → NotchBound t ∧ RegistersFinite t

/-- 60_exceptions.md R200: no operation of the label table can fail on a well-formed configuration, and while the ADC
keeps its contract MAIN does not get stuck. R200 says only that none fails. That a step that is not enabled waits, which
is a next state, is the model's choice (log entry 1; an XMIT driven alone without room, log entry 26), and so is that a
code above 1023, for which R103 gives no step, leaves the stuck mark in a next state (log entry 11). -/
def Obligations.NoOperationFails : Prop :=
  ∀ (i : Instr) (s : State), Inv s →
    ∃ t, exec i s = .next t ∧ (s.ports.adcCode ≤ 1023 → t.stuck = s.stuck)

/-- 42_scheduler_trigger.md R159: the loop never terminates: a machine left to itself always has a next state. The
step it takes is the model's choice (log entry 3), and so are that waiting is a next state (log entry 1) and that a POLL
with a tick due and a code above 1023, to which R103 gives no step, has the stuck mark as its next state (log entry 11). -/
def Obligations.LoopNeverTerminates : Prop :=
  ∀ s : State, Inv s → s.inputs = [] →
    ∃ t, step s = .next t ∧ t.inputs = [] ∧ t.ports = s.ports ∧ Inv t
      ∧ (s.ports.adcCode ≤ 1023 → t.stuck = s.stuck)

/-- 10_state.md R22, R30, R38: no step writes the configuration, T never decreases, and what was observed stays
observed. -/
def Obligations.ConfigurationTimeAndTraceOnlyGrow : Prop :=
  ∀ s t : State, step s = .next t → t.cfg = s.cfg ∧ s.time ≤ t.time ∧ s.events <+: t.events

/-- 10_state.md R36, 42_scheduler_trigger.md R163, R170: the writers of every register, over all operations. -/
def Obligations.OnlyTheListedOperationsWrite : Prop :=
  ∀ (i : Instr) (s t : State), exec i s = .next t →
    (t.fsm ≠ s.fsm → i = .reset ∨ i = .start)
    ∧ (t.luxLast ≠ s.luxLast → i = .reset ∨ i = .poll ∨ i = .tick ∨ i = .convert)
    ∧ (t.smoothed ≠ s.smoothed → i = .reset ∨ i = .poll ∨ i = .tick ∨ i = .ewma)
    ∧ (t.rawHist ≠ s.rawHist → i = .reset ∨ i = .poll ∨ i = .tick ∨ i = .hpush)
    ∧ (t.notchHist ≠ s.notchHist ∨ t.notchOut ≠ s.notchOut →
        i = .reset ∨ i = .poll ∨ i = .tick ∨ i = .notch)
    ∧ (t.firOut ≠ s.firOut → i = .reset ∨ i = .poll ∨ i = .tick ∨ i = .fir)
    ∧ (t.lastSampleTime ≠ s.lastSampleTime → i = .reset ∨ i = .start ∨ i = .poll)
    ∧ (t.lastTransmitTime ≠ s.lastTransmitTime →
        i = .reset ∨ i = .start ∨ i = .poll ∨ i = .xmit ∨ i = .trig)
    ∧ (t.pendingSend ≠ s.pendingSend → i = .reset ∨ i = .poll ∨ i = .xmit ∨ i = .trig)
    ∧ (t.txq ≠ s.txq → i = .reset ∨ i = .poll ∨ i = .xmit ∨ i = .emit)
    ∧ (t.time ≠ s.time → i = .time)
    ∧ t.cfg = s.cfg ∧ t.ports = s.ports

/-- 10_state.md R21, R33, 60_exceptions.md R202, R207, R213: only START leaves INIT and only RESET enters it; only TRIG
sets the request; and only bytes leaving the queue lift the hold: EMIT, or RESET, which empties it. The last is said of
every step of the machine too. Of the model's own fields: who writes the marks of the hold (log entry 32) and of the
stuck state (log entry 11), and that no operation writes the inputs and the point inside a composite (log entry 2). -/
def Obligations.OnlyTheseEventsChangeMode : Prop :=
  (∀ (i : Instr) (s t : State), exec i s = .next t →
    (s.fsm = .init → t.fsm = .run → i = .start ∧ s.ports.diagReady = true ∧ s.ports.rst = false)
    ∧ (s.fsm = .run → t.fsm = .init → i = .reset)
    ∧ (s.pendingSend = false → t.pendingSend = true →
        i = .trig ∧ s.fsm = .run ∧ s.cfg.txMode = .irq ∧ s.edge = true)
    ∧ (held s = true → held t = false → i = .emit ∨ i = .reset)
    ∧ (t.holding ≠ s.holding → i = .reset ∨ i = .trig ∨ i = .emit ∨ i = .time)
    ∧ (t.stuck ≠ s.stuck → i = .poll ∨ i = .tick ∨ i = .sample)
    ∧ t.inputs = s.inputs ∧ t.part = s.part)
  ∧ ∀ s t : State, step s = .next t → held s = true → held t = false → t.txq.length < s.txq.length

/-- 20_memory.md R54, 43_framer_crc.md R186, R188: no byte is dropped, reordered or split from its frame: the bytes on
the wire followed by the queue only ever grow at the end, by nothing or by one whole frame, except by RESET. -/
def Obligations.QueueKeepsWireOrder : Prop :=
  ∀ (i : Instr) (s t : State), i ≠ .reset → exec i s = .next t →
    ∃ frame : List Byte, wireBytes t.events ++ t.txq = wireBytes s.events ++ s.txq ++ frame
      ∧ (frame = [] ∨ (frame.length = frameLen s.cfg.frameMode ∧ (i = .poll ∨ i = .xmit)))

/-- 42_scheduler_trigger.md R164: in TIMER mode, after START, with a POLL at every millisecond and no hold, ticks
happen exactly at the multiples of SAMPLE_PERIOD and transmits exactly at the multiples of TX_PERIOD: after n
milliseconds their numbers and the two timestamps are those. -/
def Obligations.TwoIndependentCadences : Prop :=
  ∀ (s : State) (n : Nat), Inv s → s.cfg.txMode = .timer → s.fsm = .run → MainRuns s →
    s.ports.adcCode ≤ 1023 → s.ports.txReady = true → s.ports.advance = 0 → s.txq = [] →
    s.lastSampleTime = nowOf s → s.lastTransmitTime = nowOf s →
    ∃ t, milliseconds n s = .next t ∧ t.time = s.time + n
      ∧ adcReads t.events = adcReads s.events + n / s.cfg.samplePeriod
      ∧ diagRecords t.events = diagRecords s.events + n / s.cfg.txPeriod
      ∧ t.lastSampleTime = BitVec.ofNat 32 (s.time + s.cfg.samplePeriod * (n / s.cfg.samplePeriod))
      ∧ t.lastTransmitTime = BitVec.ofNat 32 (s.time + s.cfg.txPeriod * (n / s.cfg.txPeriod))
      ∧ t.txq = []
end

