-- ==== Sys2Proof/Laws/State.lean ====
section
/-! SUPPORT. One lemma per field for every named update of the state, so that no proof unfolds a record update. -/

namespace Sys2Proof.Machine

@[simp] theorem emitEvent_cfg (s : State) (e : Event) : (emitEvent s e).cfg = s.cfg := rfl
@[simp] theorem emitEvent_fsm (s : State) (e : Event) : (emitEvent s e).fsm = s.fsm := rfl
@[simp] theorem emitEvent_luxLast (s : State) (e : Event) : (emitEvent s e).luxLast = s.luxLast := rfl
@[simp] theorem emitEvent_smoothed (s : State) (e : Event) : (emitEvent s e).smoothed = s.smoothed := rfl
@[simp] theorem emitEvent_rawHist (s : State) (e : Event) : (emitEvent s e).rawHist = s.rawHist := rfl
@[simp] theorem emitEvent_notchHist (s : State) (e : Event) : (emitEvent s e).notchHist = s.notchHist := rfl
@[simp] theorem emitEvent_notchOut (s : State) (e : Event) : (emitEvent s e).notchOut = s.notchOut := rfl
@[simp] theorem emitEvent_firOut (s : State) (e : Event) : (emitEvent s e).firOut = s.firOut := rfl
@[simp] theorem emitEvent_lastSampleTime (s : State) (e : Event) : (emitEvent s e).lastSampleTime = s.lastSampleTime := rfl
@[simp] theorem emitEvent_lastTransmitTime (s : State) (e : Event) : (emitEvent s e).lastTransmitTime = s.lastTransmitTime := rfl
@[simp] theorem emitEvent_pendingSend (s : State) (e : Event) : (emitEvent s e).pendingSend = s.pendingSend := rfl
@[simp] theorem emitEvent_txq (s : State) (e : Event) : (emitEvent s e).txq = s.txq := rfl
@[simp] theorem emitEvent_edge (s : State) (e : Event) : (emitEvent s e).edge = s.edge := rfl
@[simp] theorem emitEvent_time (s : State) (e : Event) : (emitEvent s e).time = s.time := rfl
@[simp] theorem emitEvent_ports (s : State) (e : Event) : (emitEvent s e).ports = s.ports := rfl
@[simp] theorem emitEvent_locals (s : State) (e : Event) : (emitEvent s e).locals = s.locals := rfl
@[simp] theorem emitEvent_events (s : State) (e : Event) : (emitEvent s e).events = s.events ++ [e] := rfl
@[simp] theorem emitEvent_inputs (s : State) (e : Event) : (emitEvent s e).inputs = s.inputs := rfl
@[simp] theorem emitEvent_holding (s : State) (e : Event) : (emitEvent s e).holding = s.holding := rfl
@[simp] theorem emitEvent_stuck (s : State) (e : Event) : (emitEvent s e).stuck = s.stuck := rfl
@[simp] theorem emitEvent_part (s : State) (e : Event) : (emitEvent s e).part = s.part := rfl

@[simp] theorem txqPush_cfg (s : State) (b : Byte) : (txqPush s b).cfg = s.cfg := rfl
@[simp] theorem txqPush_fsm (s : State) (b : Byte) : (txqPush s b).fsm = s.fsm := rfl
@[simp] theorem txqPush_luxLast (s : State) (b : Byte) : (txqPush s b).luxLast = s.luxLast := rfl
@[simp] theorem txqPush_smoothed (s : State) (b : Byte) : (txqPush s b).smoothed = s.smoothed := rfl
@[simp] theorem txqPush_rawHist (s : State) (b : Byte) : (txqPush s b).rawHist = s.rawHist := rfl
@[simp] theorem txqPush_notchHist (s : State) (b : Byte) : (txqPush s b).notchHist = s.notchHist := rfl
@[simp] theorem txqPush_notchOut (s : State) (b : Byte) : (txqPush s b).notchOut = s.notchOut := rfl
@[simp] theorem txqPush_firOut (s : State) (b : Byte) : (txqPush s b).firOut = s.firOut := rfl
@[simp] theorem txqPush_lastSampleTime (s : State) (b : Byte) : (txqPush s b).lastSampleTime = s.lastSampleTime := rfl
@[simp] theorem txqPush_lastTransmitTime (s : State) (b : Byte) : (txqPush s b).lastTransmitTime = s.lastTransmitTime := rfl
@[simp] theorem txqPush_pendingSend (s : State) (b : Byte) : (txqPush s b).pendingSend = s.pendingSend := rfl
@[simp] theorem txqPush_txq (s : State) (b : Byte) : (txqPush s b).txq = s.txq ++ [b] := rfl
@[simp] theorem txqPush_edge (s : State) (b : Byte) : (txqPush s b).edge = s.edge := rfl
@[simp] theorem txqPush_time (s : State) (b : Byte) : (txqPush s b).time = s.time := rfl
@[simp] theorem txqPush_ports (s : State) (b : Byte) : (txqPush s b).ports = s.ports := rfl
@[simp] theorem txqPush_locals (s : State) (b : Byte) : (txqPush s b).locals = s.locals := rfl
@[simp] theorem txqPush_events (s : State) (b : Byte) : (txqPush s b).events = s.events := rfl
@[simp] theorem txqPush_inputs (s : State) (b : Byte) : (txqPush s b).inputs = s.inputs := rfl
@[simp] theorem txqPush_holding (s : State) (b : Byte) : (txqPush s b).holding = s.holding := rfl
@[simp] theorem txqPush_stuck (s : State) (b : Byte) : (txqPush s b).stuck = s.stuck := rfl
@[simp] theorem txqPush_part (s : State) (b : Byte) : (txqPush s b).part = s.part := rfl

@[simp] theorem resetCore_cfg (s : State) : (resetCore s).cfg = s.cfg := rfl
@[simp] theorem resetCore_fsm (s : State) : (resetCore s).fsm = .init := rfl
@[simp] theorem resetCore_luxLast (s : State) : (resetCore s).luxLast = 0 := rfl
@[simp] theorem resetCore_smoothed (s : State) : (resetCore s).smoothed = 0 := rfl
@[simp] theorem resetCore_rawHist (s : State) : (resetCore s).rawHist = List.replicate s.cfg.histLen 0 := rfl
@[simp] theorem resetCore_notchHist (s : State) : (resetCore s).notchHist = [0, 0] := rfl
@[simp] theorem resetCore_notchOut (s : State) : (resetCore s).notchOut = 0 := rfl
@[simp] theorem resetCore_firOut (s : State) : (resetCore s).firOut = 0 := rfl
@[simp] theorem resetCore_lastSampleTime (s : State) : (resetCore s).lastSampleTime = 0 := rfl
@[simp] theorem resetCore_lastTransmitTime (s : State) : (resetCore s).lastTransmitTime = 0 := rfl
@[simp] theorem resetCore_pendingSend (s : State) : (resetCore s).pendingSend = false := rfl
@[simp] theorem resetCore_txq (s : State) : (resetCore s).txq = [] := rfl
@[simp] theorem resetCore_edge (s : State) : (resetCore s).edge = false := rfl
@[simp] theorem resetCore_time (s : State) : (resetCore s).time = s.time := rfl
@[simp] theorem resetCore_ports (s : State) : (resetCore s).ports = s.ports := rfl
@[simp] theorem resetCore_locals (s : State) : (resetCore s).locals = Locals.empty := rfl
@[simp] theorem resetCore_events (s : State) : (resetCore s).events = s.events := rfl
@[simp] theorem resetCore_inputs (s : State) : (resetCore s).inputs = s.inputs := rfl
@[simp] theorem resetCore_holding (s : State) : (resetCore s).holding = false := rfl
@[simp] theorem resetCore_stuck (s : State) : (resetCore s).stuck = s.stuck := rfl
@[simp] theorem resetCore_part (s : State) : (resetCore s).part = s.part := rfl

@[simp] theorem takeTrigger_cfg (s : State) : (takeTrigger s).cfg = s.cfg := rfl
@[simp] theorem takeTrigger_fsm (s : State) : (takeTrigger s).fsm = s.fsm := rfl
@[simp] theorem takeTrigger_luxLast (s : State) : (takeTrigger s).luxLast = s.luxLast := rfl
@[simp] theorem takeTrigger_smoothed (s : State) : (takeTrigger s).smoothed = s.smoothed := rfl
@[simp] theorem takeTrigger_rawHist (s : State) : (takeTrigger s).rawHist = s.rawHist := rfl
@[simp] theorem takeTrigger_notchHist (s : State) : (takeTrigger s).notchHist = s.notchHist := rfl
@[simp] theorem takeTrigger_notchOut (s : State) : (takeTrigger s).notchOut = s.notchOut := rfl
@[simp] theorem takeTrigger_firOut (s : State) : (takeTrigger s).firOut = s.firOut := rfl
@[simp] theorem takeTrigger_lastSampleTime (s : State) : (takeTrigger s).lastSampleTime = s.lastSampleTime := rfl
@[simp] theorem takeTrigger_lastTransmitTime (s : State) : (takeTrigger s).lastTransmitTime = nowOf s := rfl
@[simp] theorem takeTrigger_pendingSend (s : State) : (takeTrigger s).pendingSend = true := rfl
@[simp] theorem takeTrigger_txq (s : State) : (takeTrigger s).txq = s.txq := rfl
@[simp] theorem takeTrigger_edge (s : State) : (takeTrigger s).edge = false := rfl
@[simp] theorem takeTrigger_time (s : State) : (takeTrigger s).time = s.time := rfl
@[simp] theorem takeTrigger_ports (s : State) : (takeTrigger s).ports = s.ports := rfl
@[simp] theorem takeTrigger_locals (s : State) : (takeTrigger s).locals = s.locals := rfl
@[simp] theorem takeTrigger_events (s : State) : (takeTrigger s).events = s.events := rfl
@[simp] theorem takeTrigger_inputs (s : State) : (takeTrigger s).inputs = s.inputs := rfl
@[simp] theorem takeTrigger_holding (s : State) : (takeTrigger s).holding = held s := rfl
@[simp] theorem takeTrigger_stuck (s : State) : (takeTrigger s).stuck = s.stuck := rfl
@[simp] theorem takeTrigger_part (s : State) : (takeTrigger s).part = s.part := rfl

@[simp] theorem clearTickLocals_cfg (s : State) : (clearTickLocals s).cfg = s.cfg := rfl
@[simp] theorem clearTickLocals_fsm (s : State) : (clearTickLocals s).fsm = s.fsm := rfl
@[simp] theorem clearTickLocals_luxLast (s : State) : (clearTickLocals s).luxLast = s.luxLast := rfl
@[simp] theorem clearTickLocals_smoothed (s : State) : (clearTickLocals s).smoothed = s.smoothed := rfl
@[simp] theorem clearTickLocals_rawHist (s : State) : (clearTickLocals s).rawHist = s.rawHist := rfl
@[simp] theorem clearTickLocals_notchHist (s : State) : (clearTickLocals s).notchHist = s.notchHist := rfl
@[simp] theorem clearTickLocals_notchOut (s : State) : (clearTickLocals s).notchOut = s.notchOut := rfl
@[simp] theorem clearTickLocals_firOut (s : State) : (clearTickLocals s).firOut = s.firOut := rfl
@[simp] theorem clearTickLocals_lastSampleTime (s : State) : (clearTickLocals s).lastSampleTime = s.lastSampleTime := rfl
@[simp] theorem clearTickLocals_lastTransmitTime (s : State) : (clearTickLocals s).lastTransmitTime = s.lastTransmitTime := rfl
@[simp] theorem clearTickLocals_pendingSend (s : State) : (clearTickLocals s).pendingSend = s.pendingSend := rfl
@[simp] theorem clearTickLocals_txq (s : State) : (clearTickLocals s).txq = s.txq := rfl
@[simp] theorem clearTickLocals_edge (s : State) : (clearTickLocals s).edge = s.edge := rfl
@[simp] theorem clearTickLocals_time (s : State) : (clearTickLocals s).time = s.time := rfl
@[simp] theorem clearTickLocals_ports (s : State) : (clearTickLocals s).ports = s.ports := rfl
@[simp] theorem clearTickLocals_locals (s : State) : (clearTickLocals s).locals = { s.locals with code := 0, v := 0, lux := 0 } := rfl
@[simp] theorem clearTickLocals_events (s : State) : (clearTickLocals s).events = s.events := rfl
@[simp] theorem clearTickLocals_inputs (s : State) : (clearTickLocals s).inputs = s.inputs := rfl
@[simp] theorem clearTickLocals_holding (s : State) : (clearTickLocals s).holding = s.holding := rfl
@[simp] theorem clearTickLocals_stuck (s : State) : (clearTickLocals s).stuck = s.stuck := rfl
@[simp] theorem clearTickLocals_part (s : State) : (clearTickLocals s).part = s.part := rfl

@[simp] theorem clearFrameLocals_cfg (s : State) : (clearFrameLocals s).cfg = s.cfg := rfl
@[simp] theorem clearFrameLocals_fsm (s : State) : (clearFrameLocals s).fsm = s.fsm := rfl
@[simp] theorem clearFrameLocals_luxLast (s : State) : (clearFrameLocals s).luxLast = s.luxLast := rfl
@[simp] theorem clearFrameLocals_smoothed (s : State) : (clearFrameLocals s).smoothed = s.smoothed := rfl
@[simp] theorem clearFrameLocals_rawHist (s : State) : (clearFrameLocals s).rawHist = s.rawHist := rfl
@[simp] theorem clearFrameLocals_notchHist (s : State) : (clearFrameLocals s).notchHist = s.notchHist := rfl
@[simp] theorem clearFrameLocals_notchOut (s : State) : (clearFrameLocals s).notchOut = s.notchOut := rfl
@[simp] theorem clearFrameLocals_firOut (s : State) : (clearFrameLocals s).firOut = s.firOut := rfl
@[simp] theorem clearFrameLocals_lastSampleTime (s : State) : (clearFrameLocals s).lastSampleTime = s.lastSampleTime := rfl
@[simp] theorem clearFrameLocals_lastTransmitTime (s : State) : (clearFrameLocals s).lastTransmitTime = s.lastTransmitTime := rfl
@[simp] theorem clearFrameLocals_pendingSend (s : State) : (clearFrameLocals s).pendingSend = s.pendingSend := rfl
@[simp] theorem clearFrameLocals_txq (s : State) : (clearFrameLocals s).txq = s.txq := rfl
@[simp] theorem clearFrameLocals_edge (s : State) : (clearFrameLocals s).edge = s.edge := rfl
@[simp] theorem clearFrameLocals_time (s : State) : (clearFrameLocals s).time = s.time := rfl
@[simp] theorem clearFrameLocals_ports (s : State) : (clearFrameLocals s).ports = s.ports := rfl
@[simp] theorem clearFrameLocals_locals (s : State) : (clearFrameLocals s).locals = { s.locals with val := 0, msg := [], crc := 0, frame := [] } := rfl
@[simp] theorem clearFrameLocals_events (s : State) : (clearFrameLocals s).events = s.events := rfl
@[simp] theorem clearFrameLocals_inputs (s : State) : (clearFrameLocals s).inputs = s.inputs := rfl
@[simp] theorem clearFrameLocals_holding (s : State) : (clearFrameLocals s).holding = s.holding := rfl
@[simp] theorem clearFrameLocals_stuck (s : State) : (clearFrameLocals s).stuck = s.stuck := rfl
@[simp] theorem clearFrameLocals_part (s : State) : (clearFrameLocals s).part = s.part := rfl

@[simp] theorem clearNow_cfg (s : State) : (clearNow s).cfg = s.cfg := rfl
@[simp] theorem clearNow_fsm (s : State) : (clearNow s).fsm = s.fsm := rfl
@[simp] theorem clearNow_luxLast (s : State) : (clearNow s).luxLast = s.luxLast := rfl
@[simp] theorem clearNow_smoothed (s : State) : (clearNow s).smoothed = s.smoothed := rfl
@[simp] theorem clearNow_rawHist (s : State) : (clearNow s).rawHist = s.rawHist := rfl
@[simp] theorem clearNow_notchHist (s : State) : (clearNow s).notchHist = s.notchHist := rfl
@[simp] theorem clearNow_notchOut (s : State) : (clearNow s).notchOut = s.notchOut := rfl
@[simp] theorem clearNow_firOut (s : State) : (clearNow s).firOut = s.firOut := rfl
@[simp] theorem clearNow_lastSampleTime (s : State) : (clearNow s).lastSampleTime = s.lastSampleTime := rfl
@[simp] theorem clearNow_lastTransmitTime (s : State) : (clearNow s).lastTransmitTime = s.lastTransmitTime := rfl
@[simp] theorem clearNow_pendingSend (s : State) : (clearNow s).pendingSend = s.pendingSend := rfl
@[simp] theorem clearNow_txq (s : State) : (clearNow s).txq = s.txq := rfl
@[simp] theorem clearNow_edge (s : State) : (clearNow s).edge = s.edge := rfl
@[simp] theorem clearNow_time (s : State) : (clearNow s).time = s.time := rfl
@[simp] theorem clearNow_ports (s : State) : (clearNow s).ports = s.ports := rfl
@[simp] theorem clearNow_locals (s : State) : (clearNow s).locals = { s.locals with now := 0 } := rfl
@[simp] theorem clearNow_events (s : State) : (clearNow s).events = s.events := rfl
@[simp] theorem clearNow_inputs (s : State) : (clearNow s).inputs = s.inputs := rfl
@[simp] theorem clearNow_holding (s : State) : (clearNow s).holding = s.holding := rfl
@[simp] theorem clearNow_stuck (s : State) : (clearNow s).stuck = s.stuck := rfl
@[simp] theorem clearNow_part (s : State) : (clearNow s).part = s.part := rfl

@[simp] theorem risingEdge_ports (s : State) : (risingEdge s).ports = { s.ports with trigIn := true } := rfl
@[simp] theorem risingEdge_edge (s : State) :
    (risingEdge s).edge = (s.edge || (s.fsm == .run && s.cfg.txMode == .irq && !s.ports.rst)) := by
  simp [risingEdge, edgeAfter]
@[simp] theorem risingEdge_cfg (s : State) : (risingEdge s).cfg = s.cfg := rfl
@[simp] theorem risingEdge_fsm (s : State) : (risingEdge s).fsm = s.fsm := rfl
@[simp] theorem risingEdge_luxLast (s : State) : (risingEdge s).luxLast = s.luxLast := rfl
@[simp] theorem risingEdge_smoothed (s : State) : (risingEdge s).smoothed = s.smoothed := rfl
@[simp] theorem risingEdge_rawHist (s : State) : (risingEdge s).rawHist = s.rawHist := rfl
@[simp] theorem risingEdge_notchHist (s : State) : (risingEdge s).notchHist = s.notchHist := rfl
@[simp] theorem risingEdge_notchOut (s : State) : (risingEdge s).notchOut = s.notchOut := rfl
@[simp] theorem risingEdge_firOut (s : State) : (risingEdge s).firOut = s.firOut := rfl
@[simp] theorem risingEdge_lastSampleTime (s : State) : (risingEdge s).lastSampleTime = s.lastSampleTime := rfl
@[simp] theorem risingEdge_lastTransmitTime (s : State) : (risingEdge s).lastTransmitTime = s.lastTransmitTime := rfl
@[simp] theorem risingEdge_pendingSend (s : State) : (risingEdge s).pendingSend = s.pendingSend := rfl
@[simp] theorem risingEdge_txq (s : State) : (risingEdge s).txq = s.txq := rfl
@[simp] theorem risingEdge_time (s : State) : (risingEdge s).time = s.time := rfl
@[simp] theorem risingEdge_locals (s : State) : (risingEdge s).locals = s.locals := rfl
@[simp] theorem risingEdge_events (s : State) : (risingEdge s).events = s.events := rfl
@[simp] theorem risingEdge_inputs (s : State) : (risingEdge s).inputs = s.inputs := rfl
@[simp] theorem risingEdge_holding (s : State) : (risingEdge s).holding = s.holding := rfl
@[simp] theorem risingEdge_stuck (s : State) : (risingEdge s).stuck = s.stuck := rfl
@[simp] theorem risingEdge_part (s : State) : (risingEdge s).part = s.part := rfl

@[simp] theorem advanceTo_cfg (t : Nat) (s : State) : (advanceTo t s).cfg = s.cfg := rfl
@[simp] theorem advanceTo_fsm (t : Nat) (s : State) : (advanceTo t s).fsm = s.fsm := rfl
@[simp] theorem advanceTo_luxLast (t : Nat) (s : State) : (advanceTo t s).luxLast = s.luxLast := rfl
@[simp] theorem advanceTo_smoothed (t : Nat) (s : State) : (advanceTo t s).smoothed = s.smoothed := rfl
@[simp] theorem advanceTo_rawHist (t : Nat) (s : State) : (advanceTo t s).rawHist = s.rawHist := rfl
@[simp] theorem advanceTo_notchHist (t : Nat) (s : State) : (advanceTo t s).notchHist = s.notchHist := rfl
@[simp] theorem advanceTo_notchOut (t : Nat) (s : State) : (advanceTo t s).notchOut = s.notchOut := rfl
@[simp] theorem advanceTo_firOut (t : Nat) (s : State) : (advanceTo t s).firOut = s.firOut := rfl
@[simp] theorem advanceTo_lastSampleTime (t : Nat) (s : State) : (advanceTo t s).lastSampleTime = s.lastSampleTime := rfl
@[simp] theorem advanceTo_lastTransmitTime (t : Nat) (s : State) : (advanceTo t s).lastTransmitTime = s.lastTransmitTime := rfl
@[simp] theorem advanceTo_pendingSend (t : Nat) (s : State) : (advanceTo t s).pendingSend = s.pendingSend := rfl
@[simp] theorem advanceTo_txq (t : Nat) (s : State) : (advanceTo t s).txq = s.txq := rfl
@[simp] theorem advanceTo_edge (t : Nat) (s : State) : (advanceTo t s).edge = s.edge := rfl
@[simp] theorem advanceTo_holding (t : Nat) (s : State) : (advanceTo t s).holding = held s := rfl
@[simp] theorem advanceTo_stuck (t : Nat) (s : State) : (advanceTo t s).stuck = s.stuck := rfl
@[simp] theorem advanceTo_time (t : Nat) (s : State) : (advanceTo t s).time = t := rfl
@[simp] theorem advanceTo_ports (t : Nat) (s : State) : (advanceTo t s).ports = s.ports := rfl
@[simp] theorem advanceTo_locals (t : Nat) (s : State) : (advanceTo t s).locals = s.locals := rfl
@[simp] theorem advanceTo_part (t : Nat) (s : State) : (advanceTo t s).part = s.part := rfl
@[simp] theorem advanceTo_events (t : Nat) (s : State) : (advanceTo t s).events = s.events := rfl
@[simp] theorem advanceTo_inputs (t : Nat) (s : State) : (advanceTo t s).inputs = s.inputs := rfl

@[simp] theorem releaseHold_cfg (s : State) : (releaseHold s).cfg = s.cfg := rfl
@[simp] theorem releaseHold_fsm (s : State) : (releaseHold s).fsm = s.fsm := rfl
@[simp] theorem releaseHold_luxLast (s : State) : (releaseHold s).luxLast = s.luxLast := rfl
@[simp] theorem releaseHold_smoothed (s : State) : (releaseHold s).smoothed = s.smoothed := rfl
@[simp] theorem releaseHold_rawHist (s : State) : (releaseHold s).rawHist = s.rawHist := rfl
@[simp] theorem releaseHold_notchHist (s : State) : (releaseHold s).notchHist = s.notchHist := rfl
@[simp] theorem releaseHold_notchOut (s : State) : (releaseHold s).notchOut = s.notchOut := rfl
@[simp] theorem releaseHold_firOut (s : State) : (releaseHold s).firOut = s.firOut := rfl
@[simp] theorem releaseHold_lastSampleTime (s : State) : (releaseHold s).lastSampleTime = s.lastSampleTime := rfl
@[simp] theorem releaseHold_lastTransmitTime (s : State) : (releaseHold s).lastTransmitTime = s.lastTransmitTime := rfl
@[simp] theorem releaseHold_pendingSend (s : State) : (releaseHold s).pendingSend = s.pendingSend := rfl
@[simp] theorem releaseHold_txq (s : State) : (releaseHold s).txq = s.txq := rfl
@[simp] theorem releaseHold_edge (s : State) : (releaseHold s).edge = s.edge := rfl
@[simp] theorem releaseHold_holding (s : State) : (releaseHold s).holding = (s.holding && !txqRoom s (frameLen s.cfg.frameMode)) := rfl
@[simp] theorem releaseHold_stuck (s : State) : (releaseHold s).stuck = s.stuck := rfl
@[simp] theorem releaseHold_time (s : State) : (releaseHold s).time = s.time := rfl
@[simp] theorem releaseHold_ports (s : State) : (releaseHold s).ports = s.ports := rfl
@[simp] theorem releaseHold_locals (s : State) : (releaseHold s).locals = s.locals := rfl
@[simp] theorem releaseHold_part (s : State) : (releaseHold s).part = s.part := rfl
@[simp] theorem releaseHold_events (s : State) : (releaseHold s).events = s.events := rfl
@[simp] theorem releaseHold_inputs (s : State) : (releaseHold s).inputs = s.inputs := rfl

@[simp] theorem stickMain_cfg (s : State) : (stickMain s).cfg = s.cfg := rfl
@[simp] theorem stickMain_fsm (s : State) : (stickMain s).fsm = s.fsm := rfl
@[simp] theorem stickMain_luxLast (s : State) : (stickMain s).luxLast = s.luxLast := rfl
@[simp] theorem stickMain_smoothed (s : State) : (stickMain s).smoothed = s.smoothed := rfl
@[simp] theorem stickMain_rawHist (s : State) : (stickMain s).rawHist = s.rawHist := rfl
@[simp] theorem stickMain_notchHist (s : State) : (stickMain s).notchHist = s.notchHist := rfl
@[simp] theorem stickMain_notchOut (s : State) : (stickMain s).notchOut = s.notchOut := rfl
@[simp] theorem stickMain_firOut (s : State) : (stickMain s).firOut = s.firOut := rfl
@[simp] theorem stickMain_lastSampleTime (s : State) : (stickMain s).lastSampleTime = s.lastSampleTime := rfl
@[simp] theorem stickMain_lastTransmitTime (s : State) : (stickMain s).lastTransmitTime = s.lastTransmitTime := rfl
@[simp] theorem stickMain_pendingSend (s : State) : (stickMain s).pendingSend = s.pendingSend := rfl
@[simp] theorem stickMain_txq (s : State) : (stickMain s).txq = s.txq := rfl
@[simp] theorem stickMain_edge (s : State) : (stickMain s).edge = s.edge := rfl
@[simp] theorem stickMain_holding (s : State) : (stickMain s).holding = s.holding := rfl
@[simp] theorem stickMain_stuck (s : State) : (stickMain s).stuck = some .adcOutOfRange := rfl
@[simp] theorem stickMain_time (s : State) : (stickMain s).time = s.time := rfl
@[simp] theorem stickMain_ports (s : State) : (stickMain s).ports = s.ports := rfl
@[simp] theorem stickMain_locals (s : State) : (stickMain s).locals = s.locals := rfl
@[simp] theorem stickMain_part (s : State) : (stickMain s).part = s.part := rfl
@[simp] theorem stickMain_events (s : State) : (stickMain s).events = s.events := rfl
@[simp] theorem stickMain_inputs (s : State) : (stickMain s).inputs = s.inputs := rfl

end Sys2Proof.Machine
end

