-- ==== Sys2Proof/Laws/Ops.lean ====
section
/-! SUPPORT. What each shared operation can do, said once. -/

namespace Sys2Proof.Machine

@[simp] theorem andThen_next (s : State) (f : State → Result) : andThen (.next s) f = f s := rfl

@[simp] theorem andThen_fault (e : Fault) (f : State → Result) : andThen (.fault e) f = .fault e := rfl

@[simp] theorem andThen_refused (e : Refusal) (f : State → Result) : andThen (.refused e) f = .refused e := rfl

/-- Two parts answer a next state exactly when the first does and the second does from there. -/
theorem andThen_eq_next {r : Result} {f : State → Result} {t : State} :
    andThen r f = .next t ↔ ∃ s, r = .next s ∧ f s = .next t := by
  cases r <;> simp

/-- Two parts fault when the first does, or the second does from the first's next state. -/
theorem andThen_eq_fault {r : Result} {f : State → Result} {e : Fault} :
    andThen r f = .fault e ↔ r = .fault e ∨ ∃ s, r = .next s ∧ f s = .fault e := by
  cases r <;> simp

theorem andThen_assoc (r : Result) (f g : State → Result) :
    andThen (andThen r f) g = andThen r fun s => andThen (f s) g := by
  cases r <;> rfl

theorem mainFree_iff {s : State} : mainFree s = true ↔ s.ports.rst = false ∧ s.stuck = none := by
  simp [mainFree]

theorem whenFree_of_free {s : State} (h : mainFree s = true) (r : Result) : whenFree s r = r := by
  simp [whenFree, h]

theorem whenFree_of_not_free {s : State} (h : mainFree s = false) (r : Result) : whenFree s r = .next s := by
  simp [whenFree, h]

/-- A gated part waits where MAIN may take no step and is the part itself elsewhere. -/
theorem whenFree_eq_next {s t : State} {r : Result} :
    whenFree s r = .next t ↔ (mainFree s = false ∧ t = s) ∨ (mainFree s = true ∧ r = .next t) := by
  cases h : mainFree s <;> simp [whenFree, h, eq_comm]

theorem withConversion_of_le {s : State} (h : s.ports.adcCode ≤ codeMax) (r : Result) : withConversion s r = r := by
  simp [withConversion, Nat.not_lt.mpr h]

/-- A part with a conversion is stuck on a code outside the contract and is the part itself on every other. -/
theorem withConversion_eq_next {s t : State} {r : Result} :
    withConversion s r = .next t ↔
      (codeMax < s.ports.adcCode ∧ t = stickMain s) ∨ (s.ports.adcCode ≤ codeMax ∧ r = .next t) := by
  by_cases h : codeMax < s.ports.adcCode
  · simp [withConversion, h, Nat.not_le.mpr h, eq_comm]
  · simp [withConversion, h, Nat.le_of_not_lt h]

/-- The hold needs RUN, a condition met now or before, and a queue without room. -/
theorem held_iff {s : State} :
    held s = true ↔ s.fsm = .run ∧ (s.holding = true ∨ transmitDue s (nowOf s) = true)
      ∧ s.cfg.txqDepth < s.txq.length + frameLen s.cfg.frameMode := by
  simp [held, txqRoom, and_assoc]

/-- Time and the interrupt leave a hold one: no change of the transmit condition lifts it. -/
theorem held_advanceTo {s : State} (t : Nat) (h : held s = true) : held (advanceTo t s) = true := by
  obtain ⟨hf, -, hq⟩ := held_iff.mp h
  exact held_iff.mpr ⟨hf, .inl h, hq⟩

theorem held_takeTrigger {s : State} (h : held s = true) : held (takeTrigger s) = true := by
  obtain ⟨hf, -, hq⟩ := held_iff.mp h
  exact held_iff.mpr ⟨hf, .inl h, hq⟩

@[simp] theorem historyPush_length (hist : List F32) (x : F32) : (historyPush hist x).length = hist.length := by
  simp [historyPush]

/-- A push in front of a history that is not empty drops its last element. -/
theorem historyPush_eq {hist : List F32} (h : hist ≠ []) (x : F32) :
    historyPush hist x = x :: hist.dropLast := by
  obtain ⟨n, hn⟩ : ∃ n, hist.length = n + 1 := Nat.exists_eq_succ_of_ne_zero (by simpa using h)
  simp [historyPush, hn, List.dropLast_eq_take]

theorem mem_historyPush {hist : List F32} {x y : F32} (h : y ∈ historyPush hist x) : y = x ∨ y ∈ hist := by
  simpa using List.mem_of_mem_take h

/-- Pushing a frame changes the queue alone, at its tail. -/
theorem txqPushAll_eq (s : State) (bytes : List Byte) :
    txqPushAll s bytes = { s with txq := s.txq ++ bytes } := by
  induction bytes generalizing s with
  | nil => simp [txqPushAll]
  | cons b rest ih => simp [txqPushAll, ih, txqPush]

theorem txqRoom_iff {s : State} {n : Nat} : txqRoom s n = true ↔ s.txq.length + n ≤ s.cfg.txqDepth := by
  simp [txqRoom]

/-- The level change out of reset: the ports and the edge detector. -/
theorem setLevels_of_not_rst {s : State} {p : Ports} (h : p.rst = false) :
    setLevels s p = { s with ports := p, edge := edgeAfter s p.trigIn } := by
  simp [setLevels, h]

/-- The level change into reset is RESET under the new levels. -/
theorem setLevels_of_rst {s : State} {p : Ports} (h : p.rst = true) :
    setLevels s p = resetCore { s with ports := p } := by
  simp [setLevels, h, resetCore]

@[simp] theorem setLevels_ports (s : State) (p : Ports) : (setLevels s p).ports = p := by
  cases h : p.rst <;> simp [setLevels, h]

@[simp] theorem setLevels_cfg (s : State) (p : Ports) : (setLevels s p).cfg = s.cfg := by
  cases h : p.rst <;> simp [setLevels, h]

@[simp] theorem setLevels_time (s : State) (p : Ports) : (setLevels s p).time = s.time := by
  cases h : p.rst <;> simp [setLevels, h]

@[simp] theorem setLevels_events (s : State) (p : Ports) : (setLevels s p).events = s.events := by
  cases h : p.rst <;> simp [setLevels, h]

@[simp] theorem setLevels_inputs (s : State) (p : Ports) : (setLevels s p).inputs = s.inputs := by
  cases h : p.rst <;> simp [setLevels, h]

/-- RESET twice is RESET once. -/
theorem resetCore_idem (s : State) : resetCore (resetCore s) = resetCore s := rfl

end Sys2Proof.Machine
end

