-- ==== Sys2Proof/Laws/Datapath.lean ====
section
/-! SUPPORT. What each stage of the tick can do, said once, and what a whole tick leaves. -/

namespace Sys2Proof.Machine

/-- SAMPLE of a code in range as one update of the state. -/
theorem sampleOp_eq (s : State) :
    sampleOp s =
      { s with
        locals := { s.locals with code := s.ports.adcCode, v := sampleVoltage s.cfg s.ports.adcCode }
        events := s.events ++ [.adcRead s.ports.adcCode] } := rfl

/-- NOTCH on files of their lengths: the sum, pushed. -/
theorem notchOp_eq {s : State} {n0 n1 r0 r1 r2 : F32} {older : List F32} (hn : s.notchHist = [n0, n1])
    (hr : s.rawHist = r0 :: r1 :: r2 :: older) :
    notchOp s = .next
      { s with notchOut := notchSum n0 n1 r0 r1 r2, notchHist := [notchSum n0 n1 r0 r1 r2, n0] } := by
  simp [notchOp, hn, hr, historyPush]

/-- Whenever NOTCH answers a next state, it wrote its output and its history, and no length changed. -/
theorem notchOp_next {s t : State} (h : notchOp s = .next t) :
    ∃ out, t = { s with notchOut := out, notchHist := historyPush s.notchHist out } := by
  simp only [notchOp] at h
  split at h
  · exact ⟨_, by simpa using h.symm⟩
  · exact absurd h (by simp)

/-- FIR on a history that holds TAPS samples. -/
theorem firOp_eq {s : State} (h : s.cfg.taps ≤ s.rawHist.length) :
    firOp s = .next { s with firOut := firSum 0 s.rawHist s.cfg.firW } := by
  simp [firOp, Nat.not_lt.mpr h]

theorem firOp_eq_next {s t : State} :
    firOp s = .next t ↔ s.cfg.taps ≤ s.rawHist.length ∧ t = { s with firOut := firSum 0 s.rawHist s.cfg.firW } := by
  by_cases h : s.rawHist.length < s.cfg.taps
  · simp [firOp, h]
  · simp [firOp, h, Nat.le_of_not_lt h, eq_comm]

/-- The three stages between SAMPLE and NOTCH as one update, with the illuminance named. -/
theorem hpush_ewma_convert_eq (s : State) (lux : F32) (h : clampLux (rawLux s.cfg s.locals.v) = lux) :
    hpushOp (ewmaOp (convertOp s)) =
      { s with
        luxLast := lux
        smoothed := ewmaNext s.smoothed lux
        rawHist := historyPush s.rawHist lux
        locals := { s.locals with lux := lux } } := by
  subst h; rfl

/-- Whenever a tick answers a next state, every register of the tick is as its stage leaves it, and nothing else
changed. -/
theorem tickOp_next {s t : State} (h : tickOp s = .next t) :
    ∃ out, t =
      { s with
        luxLast := clampLux (rawLux s.cfg (sampleVoltage s.cfg s.ports.adcCode))
        smoothed := ewmaNext s.smoothed (clampLux (rawLux s.cfg (sampleVoltage s.cfg s.ports.adcCode)))
        rawHist := historyPush s.rawHist (clampLux (rawLux s.cfg (sampleVoltage s.cfg s.ports.adcCode)))
        notchHist := historyPush s.notchHist out
        notchOut := out
        firOut := firSum 0
          (historyPush s.rawHist (clampLux (rawLux s.cfg (sampleVoltage s.cfg s.ports.adcCode)))) s.cfg.firW
        locals := { s.locals with code := 0, v := 0, lux := 0 }
        events := s.events ++ [.adcRead s.ports.adcCode] } := by
  simp only [tickOp, andThen_eq_next, firOp_eq_next] at h
  obtain ⟨s2, h2, s3, ⟨-, rfl⟩, h4⟩ := h
  rw [hpush_ewma_convert_eq _ _ rfl] at h2
  obtain ⟨out, rfl⟩ := notchOp_next h2
  refine ⟨out, ?_⟩
  injection h4 with h4
  rw [← h4]
  rfl

/-- NOTCH completes on files of their lengths. -/
theorem notchOp_completes {s : State} (hn : s.notchHist.length = 2) (hr : 3 ≤ s.rawHist.length) :
    ∃ t, notchOp s = .next t ∧ t.cfg = s.cfg ∧ t.rawHist = s.rawHist := by
  obtain ⟨n0, n1, hn⟩ := List.length_eq_two.mp hn
  obtain ⟨a, b, c, d, hs⟩ : ∃ a b c d, s.rawHist = a :: b :: c :: d := by
    match hs : s.rawHist with
    | a :: b :: c :: d => exact ⟨a, b, c, d, rfl⟩
    | [] | [_] | [_, _] => simp [hs] at hr
  exact ⟨_, notchOp_eq hn hs, rfl, rfl⟩

/-- What the notch of a tick finds: HPUSH, EWMA and CONVERT keep the configuration, the notch history and the
length of the raw history. -/
theorem hpush_ewma_convert_shape (s : State) :
    (hpushOp (ewmaOp (convertOp s))).cfg = s.cfg ∧ (hpushOp (ewmaOp (convertOp s))).notchHist = s.notchHist
      ∧ (hpushOp (ewmaOp (convertOp s))).rawHist.length = s.rawHist.length := by
  rw [hpush_ewma_convert_eq _ _ rfl]
  exact ⟨rfl, rfl, historyPush_length _ _⟩

/-- A tick completes where the history files have their lengths. -/
theorem tickOp_completes {s : State} (hn : s.notchHist.length = 2) (hr : s.rawHist.length = s.cfg.histLen) :
    ∃ t, tickOp s = .next t := by
  have hlen : 3 ≤ s.rawHist.length := by simp [hr, Config.histLen]
  have htaps : s.cfg.taps ≤ s.rawHist.length := by simp [hr, Config.histLen]
  unfold tickOp
  generalize hu : sampleOp s = u
  have hcfg : u.cfg = s.cfg := by rw [← hu]; rfl
  have hnh : u.notchHist = s.notchHist := by rw [← hu]; rfl
  have hrh : u.rawHist = s.rawHist := by rw [← hu]; rfl
  obtain ⟨k1, k2, k3⟩ := hpush_ewma_convert_shape u
  obtain ⟨t, ht, hcfg', hraw⟩ :=
    notchOp_completes (s := hpushOp (ewmaOp (convertOp u))) (by rw [k2, hnh]; exact hn) (by rw [k3, hrh]; exact hlen)
  rw [ht, andThen_next, firOp_eq (by rw [hcfg', hraw, k1, k3, hcfg, hrh]; exact htaps), andThen_next]
  exact ⟨_, rfl⟩

end Sys2Proof.Machine
end

