-- ==== Sys2Proof/Laws/Transmit.lean ====
section
/-! SUPPORT. What the transmit step leaves, said once. -/

namespace Sys2Proof.Machine

/-- The frame a state with these outputs sends. -/
def frameOf (s : State) : List Byte :=
  match s.cfg.frameMode with
  | .binary =>
    binHead s.cfg.stationId (frameValue .binary (selectedOutput s)) ++
      [crc8Of (binHead s.cfg.stationId (frameValue .binary (selectedOutput s)))]
  | .text => txtFrame s.cfg.stationId (frameValue .text (selectedOutput s))

theorem frameOf_length (s : State) : (frameOf s).length = frameLen s.cfg.frameMode := by
  cases h : s.cfg.frameMode <;> simp [frameOf, h, frameLen, binHead, txtFrame]

/-- XMIT as one update of the state. -/
theorem xmitOp_eq (s : State) :
    xmitOp s =
      { s with
        txq := s.txq ++ frameOf s
        lastTransmitTime := s.locals.now
        pendingSend := false
        locals := { s.locals with val := 0, msg := [], crc := 0, frame := [] }
        events := s.events ++ [.diag (diagRecord s)] } := by
  cases h : s.cfg.frameMode <;>
    simp [xmitOp, packOp, valueOp, diagOp, packBinOp, packTxtOp, crc8Op, txqPushAll_eq, clearFrameLocals, emitEvent,
      frameOf, h, selectedOutput]

end Sys2Proof.Machine
end

