-- ==== Sys2Proof/Laws/Agents.lean ====
section
/-! SUPPORT. What each agent's step can do, said once. -/

namespace Sys2Proof.Machine

theorem startEnabled_iff {s : State} :
    startEnabled s = true ↔ mainFree s = true ∧ s.fsm = .init ∧ s.ports.diagReady = true := by
  simp [startEnabled, and_assoc]

theorem pollEnabled_iff {s : State} :
    pollEnabled s = true ↔ mainFree s = true ∧ s.fsm = .run ∧ held s = false := by
  simp [pollEnabled, and_assoc]

theorem trigEnabled_iff {s : State} :
    trigEnabled s = true ↔
      s.ports.rst = false ∧ s.edge = true ∧ s.fsm = .run ∧ s.cfg.txMode = .irq := by
  simp [trigEnabled, and_assoc]

theorem emitEnabled_iff {s : State} :
    emitEnabled s = true ↔ s.ports.rst = false ∧ s.txq ≠ [] ∧ s.ports.txReady = true := by
  simp [emitEnabled, txValid, and_assoc]

/-- The sampling part of a POLL answers either the state or the state after a tick. -/
theorem pollSample_next {now : Millis} {s t : State} (h : pollSample now s = .next t) :
    (sampleDue s now = false ∧ t = s) ∨
      (sampleDue s now = true ∧ ∃ u, tickOp s = .next u ∧ t = { u with lastSampleTime := now }) := by
  cases hd : sampleDue s now
  · simp [pollSample, hd] at h
    exact .inl ⟨rfl, h.symm⟩
  · simp [pollSample, hd, andThen_eq_next] at h
    obtain ⟨u, hu, rfl⟩ := h
    exact .inr ⟨rfl, u, hu, rfl⟩

/-- A POLL that MAIN can take samples and then transmits. -/
theorem pollOp_next {s t : State} (h : pollOp s = .next t) :
    ∃ u, pollSample (nowOf s) { s with locals := { s.locals with now := nowOf s } } = .next u ∧
      t = clearNow (pollTransmit (nowOf s) u) := by
  simp only [pollOp, andThen_eq_next] at h
  obtain ⟨u, hu, ht⟩ := h
  exact ⟨u, hu, by simpa using ht.symm⟩

/-- A POLL waits, or it is stuck with its conversion, or it samples and then transmits. -/
theorem execPoll_next {s t : State} (h : execPoll s = .next t) :
    (pollEnabled s = false ∧ t = s) ∨
      (pollEnabled s = true ∧ sampleDue s (nowOf s) = true ∧ codeMax < s.ports.adcCode ∧ t = stickMain s) ∨
      (pollEnabled s = true ∧ (sampleDue s (nowOf s) = true → s.ports.adcCode ≤ codeMax) ∧
        ∃ u, pollSample (nowOf s) { s with locals := { s.locals with now := nowOf s } } = .next u ∧
          t = clearNow (pollTransmit (nowOf s) u)) := by
  cases he : pollEnabled s
  · simp [execPoll, he] at h
    exact .inl ⟨rfl, h.symm⟩
  cases hd : sampleDue s (nowOf s)
  · simp only [execPoll, he, hd, Bool.not_true, Bool.false_eq_true, if_false] at h
    exact .inr (.inr ⟨rfl, by simp, pollOp_next h⟩)
  · simp only [execPoll, he, hd, Bool.not_true, Bool.false_eq_true, if_false, if_true, withConversion_eq_next] at h
    rcases h with ⟨hc, rfl⟩ | ⟨hc, h⟩
    · exact .inr (.inl ⟨rfl, rfl, hc, rfl⟩)
    · exact .inr (.inr ⟨rfl, fun _ => hc, pollOp_next h⟩)

/-- EMIT waits, or it sends the head byte and ends a hold if the room is there. -/
theorem execEmit_next {s t : State} (h : execEmit s = .next t) :
    t = s ∨ ∃ b rest, s.txq = b :: rest ∧ emitEnabled s = true ∧
      t = releaseHold (emitEvent { s with txq := rest } (.wire b)) := by
  simp only [execEmit] at h
  split at h
  · exact .inl (by simpa using h.symm)
  · rename_i b rest hq
    split at h
    · exact .inr ⟨b, rest, hq, by assumption, by simpa using h.symm⟩
    · exact .inl (by simpa using h.symm)

end Sys2Proof.Machine
end

