-- ==== Sys2Proof/Laws/Float.lean ====
section
/-! SUPPORT. What rounding does, once: the rounded quotient is within half a unit, rounding never reverses an order,
and a pattern's magnitude rounds to the pattern. -/

namespace Sys2Proof.Machine

theorem rneDiv_bounds {num den : Nat} (hd : 0 < den) :
    2 * num ≤ (2 * rneDiv num den + 1) * den ∧ 2 * rneDiv num den * den ≤ 2 * num + den := by
  have hq : den * (num / den) + num % den = num := Nat.div_add_mod num den
  have hr : num % den < den := Nat.mod_lt num hd
  have e1 : (2 * (num / den + 1) + 1) * den = 2 * (den * (num / den)) + 3 * den := by ring
  have e2 : 2 * (num / den + 1) * den = 2 * (den * (num / den)) + 2 * den := by ring
  have e3 : (2 * (num / den) + 1) * den = 2 * (den * (num / den)) + den := by ring
  have e4 : 2 * (num / den) * den = 2 * (den * (num / den)) := by ring
  simp only [rneDiv]
  split <;> omega

theorem rneDiv_mul_self {den k : Nat} (hd : 0 < den) : rneDiv (k * den) den = k := by
  have h : ¬ (den < 2 * (k * den % den) ∨ 2 * (k * den % den) = den ∧ k * den / den % 2 = 1) := by
    rw [Nat.mul_mod_left]; omega
  simp only [rneDiv]
  rw [if_neg h, Nat.mul_div_cancel k hd]

/-- Halfway between two whole numbers the even one is taken. -/
theorem rneDiv_tie {num den k : Nat} (hd : 0 < den) (h : 2 * num = (2 * k + 1) * den) :
    rneDiv num den = if k % 2 = 1 then k + 1 else k := by
  have hlt : 2 * num < 2 * ((k + 1) * den) := by nlinarith
  have hq : num / den = k := by
    apply Nat.div_eq_of_lt_le
    · nlinarith
    · omega
  have hr : 2 * (num % den) = den := by
    have := Nat.div_add_mod num den
    rw [hq] at this
    nlinarith
  simp only [rneDiv, hq, hr]
  have : ¬ den < den := lt_irrefl den
  by_cases hk : k % 2 = 1 <;> simp [hk]

theorem rneDiv_mono {n1 d1 n2 d2 : Nat} (h1 : 0 < d1) (h2 : 0 < d2) (h : n1 * d2 ≤ n2 * d1) :
    rneDiv n1 d1 ≤ rneDiv n2 d2 := by
  by_contra hlt
  push Not at hlt
  have lower := (rneDiv_bounds (num := n1) h1).2
  have upper := (rneDiv_bounds (num := n2) h2).1
  set r1 := rneDiv n1 d1 with hr1
  set r2 := rneDiv n2 d2 with hr2
  have e1 : (2 * r2 + 1) * d1 ≤ 2 * n1 := by nlinarith
  have c1 : (2 * r2 + 1) * d1 * d2 ≤ 2 * n1 * d2 := Nat.mul_le_mul_right d2 e1
  have c2 : 2 * n2 * d1 ≤ (2 * r2 + 1) * d2 * d1 := Nat.mul_le_mul_right d1 upper
  have t1 : 2 * n1 = (2 * r2 + 1) * d1 := by
    apply Nat.eq_of_mul_eq_mul_right h2
    nlinarith
  have t2 : 2 * n2 = (2 * r2 + 1) * d2 := by
    apply Nat.eq_of_mul_eq_mul_right h1
    nlinarith
  have s1 := rneDiv_tie h1 t1
  have s2 := rneDiv_tie h2 t2
  omega

theorem le_rneDiv {num den k : Nat} (hd : 0 < den) (h : k * den ≤ num) : k ≤ rneDiv num den := by
  have : rneDiv (k * den) den ≤ rneDiv num den := rneDiv_mono hd hd (Nat.mul_le_mul_right den h)
  rwa [rneDiv_mul_self hd] at this

theorem rneDiv_le {num den k : Nat} (hd : 0 < den) (h : num ≤ k * den) : rneDiv num den ≤ k := by
  have : rneDiv num den ≤ rneDiv (k * den) den := rneDiv_mono hd hd (Nat.mul_le_mul_right den h)
  rwa [rneDiv_mul_self hd] at this

/-- In the binade of the quotient the rounded significand has at most 24 bits, or is the next power of two. -/
theorem rneDiv_binade {num den : Nat} (hd : 0 < den) :
    rneDiv num (den * 2 ^ (Nat.log2 (num / den) - 23)) ≤ 2 ^ 24 ∧
      (23 ≤ Nat.log2 (num / den) →
        2 ^ 23 ≤ rneDiv num (den * 2 ^ (Nat.log2 (num / den) - 23))) := by
  set q := num / den with hq
  have hpos : 0 < den * 2 ^ (Nat.log2 q - 23) := by positivity
  have hup : q < 2 ^ (Nat.log2 q + 1) := Nat.lt_log2_self
  have hnum : num < (q + 1) * den := by
    rw [hq]; exact Nat.lt_mul_of_div_lt (Nat.lt_succ_self _) hd
  constructor
  · apply rneDiv_le hpos
    have : q + 1 ≤ 2 ^ (24 + (Nat.log2 q - 23)) := by
      refine le_trans (Nat.succ_le_of_lt hup) (Nat.pow_le_pow_right (by norm_num) (by omega))
    calc num ≤ (q + 1) * den := hnum.le
      _ ≤ 2 ^ (24 + (Nat.log2 q - 23)) * den := Nat.mul_le_mul_right den this
      _ = 2 ^ 24 * (den * 2 ^ (Nat.log2 q - 23)) := by rw [pow_add]; ring
  · intro h23
    apply le_rneDiv hpos
    have hne : q ≠ 0 := by rintro h0; rw [h0] at h23; simp at h23
    have hlow : 2 ^ Nat.log2 q ≤ q := Nat.log2_self_le hne
    calc 2 ^ 23 * (den * 2 ^ (Nat.log2 q - 23)) = 2 ^ (23 + (Nat.log2 q - 23)) * den := by rw [pow_add]; ring
      _ = 2 ^ Nat.log2 q * den := by rw [show 23 + (Nat.log2 q - 23) = Nat.log2 q by omega]
      _ ≤ q * den := Nat.mul_le_mul_right den hlow
      _ ≤ num := by rw [hq]; exact Nat.div_mul_le_self num den

/-- A larger quotient has no smaller pattern. -/
theorem roundMag_mono {n1 d1 n2 d2 : Nat} (h1 : 0 < d1) (h2 : 0 < d2) (h : n1 * d2 ≤ n2 * d1) :
    roundMag n1 d1 ≤ roundMag n2 d2 := by
  have hq : n1 / d1 ≤ n2 / d2 := by
    rw [Nat.le_div_iff_mul_le h2]
    have : n1 / d1 * d2 * d1 ≤ n2 * d1 := by
      calc n1 / d1 * d2 * d1 = n1 / d1 * d1 * d2 := by ring
        _ ≤ n1 * d2 := Nat.mul_le_mul_right d2 (Nat.div_mul_le_self n1 d1)
        _ ≤ n2 * d1 := h
    exact Nat.le_of_mul_le_mul_right this h1
  have hlog : Nat.log2 (n1 / d1) ≤ Nat.log2 (n2 / d2) := by
    rw [Nat.log2_eq_log_two, Nat.log2_eq_log_two]
    exact Nat.log_mono_right hq
  have b1 := rneDiv_binade (num := n1) h1
  have b2 := rneDiv_binade (num := n2) h2
  simp only [roundMag]
  apply min_le_min_right
  by_cases heq : Nat.log2 (n1 / d1) - 23 = Nat.log2 (n2 / d2) - 23
  · rw [heq]
    have : rneDiv n1 (d1 * 2 ^ (Nat.log2 (n2 / d2) - 23)) ≤ rneDiv n2 (d2 * 2 ^ (Nat.log2 (n2 / d2) - 23)) := by
      apply rneDiv_mono (by positivity) (by positivity)
      calc n1 * (d2 * 2 ^ (Nat.log2 (n2 / d2) - 23)) = n1 * d2 * 2 ^ (Nat.log2 (n2 / d2) - 23) := by ring
        _ ≤ n2 * d1 * 2 ^ (Nat.log2 (n2 / d2) - 23) := Nat.mul_le_mul_right _ h
        _ = n2 * (d1 * 2 ^ (Nat.log2 (n2 / d2) - 23)) := by ring
    omega
  · have := b1.1
    have := b2.2 (by omega)
    omega

theorem roundMag_le_inf (num den : Nat) : roundMag num den ≤ infBits := min_le_right _ _

/-- Fields of a pattern written as its exponent and fraction. -/
theorem f32Pack_false_toNat {p : Nat} (h : p ≤ infBits) : (f32Pack false p).toNat = p := by
  simp only [f32Pack, infBits] at *
  simp [BitVec.toNat_ofNat]
  omega

theorem f32Sign_eq (a : F32) : f32Sign a = decide (2 ^ 31 ≤ a.toNat) := by
  simp [f32Sign, BitVec.msb_eq_decide]

/-- A pattern up to +infinity is a value from +0.0 up and no NaN. -/
theorem nonneg_of_le_inf {a : F32} (h : a.toNat ≤ infBits) : f32Sign a = false ∧ f32IsNaN a = false := by
  simp only [infBits] at h
  constructor
  · rw [f32Sign_eq]; simp; omega
  · simp [f32IsNaN, f32Exp, f32Frac]
    omega

/-- A pattern below +infinity is a finite value from +0.0 up. -/
theorem finite_of_lt_inf {a : F32} (h : a.toNat < infBits) : f32IsFinite a = true ∧ f32IsInf a = false := by
  simp only [infBits] at h
  constructor
  · simp [f32IsFinite, f32Exp]; omega
  · simp [f32IsInf, f32Exp]; omega

end Sys2Proof.Machine
end

