-- ==== Sys2Proof/Laws/PerInstr.lean ====
section
/-! SUPPORT. A fact about every operation as syntax, one lemma per constructor: the label of an operation lies in the
class the table lists it in (30_encoding.md R70, R71), and no other label decodes to the operation. -/

namespace Sys2Proof.Laws.LabelClasses

/-- The label's class bits are the operation's class, and the label is the only one that decodes to it. -/
def Statement (i : Instr) : Prop :=
  classOfBits (encodeLabel i) = some i.labelClass ∧
    ∀ op : BitVec 5, decodeLabel op = .ok i ↔ op = encodeLabel i

/-- A check of all 32 labels. -/
def onlyLabel (i : Instr) : Bool :=
  (List.range 32).all fun k =>
    (match decodeLabel (BitVec.ofNat 5 k) with
      | .ok j => decide (j = i)
      | .error _ => false) == decide (BitVec.ofNat 5 k = encodeLabel i)

theorem statement_of_check {i : Instr} (hclass : classOfBits (encodeLabel i) = some i.labelClass)
    (h : onlyLabel i = true) : Statement i := by
  refine ⟨hclass, fun op => ?_⟩
  have hop := List.all_eq_true.mp h op.toNat (by simpa using op.isLt)
  rw [BitVec.ofNat_toNat, BitVec.setWidth_eq] at hop
  cases hd : decodeLabel op with
  | ok j => simpa [hd] using hop
  | error e => simpa [hd] using hop

theorem reset : Statement .reset := statement_of_check (by decide) (by decide)
theorem start : Statement .start := statement_of_check (by decide) (by decide)
theorem poll : Statement .poll := statement_of_check (by decide) (by decide)
theorem trig : Statement .trig := statement_of_check (by decide) (by decide)
theorem emit : Statement .emit := statement_of_check (by decide) (by decide)
theorem time : Statement .time := statement_of_check (by decide) (by decide)
theorem tick : Statement .tick := statement_of_check (by decide) (by decide)
theorem sample : Statement .sample := statement_of_check (by decide) (by decide)
theorem convert : Statement .convert := statement_of_check (by decide) (by decide)
theorem ewma : Statement .ewma := statement_of_check (by decide) (by decide)
theorem hpush : Statement .hpush := statement_of_check (by decide) (by decide)
theorem notch : Statement .notch := statement_of_check (by decide) (by decide)
theorem fir : Statement .fir := statement_of_check (by decide) (by decide)
theorem xmit : Statement .xmit := statement_of_check (by decide) (by decide)
theorem value : Statement .value := statement_of_check (by decide) (by decide)
theorem crc8 : Statement .crc8 := statement_of_check (by decide) (by decide)
theorem packBin : Statement .packBin := statement_of_check (by decide) (by decide)
theorem packTxt : Statement .packTxt := statement_of_check (by decide) (by decide)
theorem diag : Statement .diag := statement_of_check (by decide) (by decide)

end Sys2Proof.Laws.LabelClasses
end

