-- ==== Sys2Proof/Tests/Slice0.lean ====
section
/-! SUPPORT. Small tests with expected results from spec/ (95_test_vectors.md unless said otherwise), and for every
statement with hypotheses a state and operands that meet all of them together. -/

namespace Sys2Proof.Tests

open Sys2Proof Sys2Proof.Machine Sys2Proof.Safety

/-! ## Helpers -/

/-- The answer is a next state with the property. -/
def nextHas (r : Result) (p : State → Bool) : Bool :=
  match r with
  | .next s => p s
  | .fault _ => false
  | .refused _ => false

/-- The example configuration in RUN, with `diag_ready` seen. -/
def running : State := { State.reset with fsm := .run, ports := { Ports.low with diagReady := true } }

/-- The same in IRQ mode. -/
def runningIrq : State := { running with cfg := { Config.specExample with txMode := .irq } }

/-- The same with an edge of `trig_in` seen. -/
def edgeSeen : State := { runningIrq with edge := true }

/-- A queue with room for no further frame, and a transmit that is due. -/
def holding : State := { running with txq := List.replicate 14 0, time := 1000 }

def withCode (c : Nat) (s : State) : State := { s with ports := { s.ports with adcCode := c } }

def withLocals (s : State) (f : Locals → Locals) : State := { s with locals := f s.locals }

def withInput (x : Input) (s : State) : State := { s with inputs := [x] }

def withConfig (c : Config) (s : State) : State := { s with cfg := c }

/-- What refuses a configuration, with the name of the check. -/
def refusesWith (c : Config) (e : ConfigError) : Bool := decide (configError c = some e)

/-! ## Ill-formed lines and configurations -/

theorem test_wf_poll_code_limit : (Line.poll 0 (some 1023)).wellFormed = true := by decide
theorem test_wf_poll_code_too_large : (Line.poll 0 (some 1024)).wellFormed = false := by decide
theorem test_wf_range_reversed : (Line.pollRange 2 1 none).wellFormed = false := by decide
theorem test_wf_range_code_too_large : (Line.pollRange 1 2 (some 1024)).wellFormed = false := by decide
theorem test_wf_emit_too_many : (Line.emit 2048).wellFormed = false := by decide
theorem test_wf_emit_limit : (Line.emit 2047).wellFormed = true := by decide

/-- 00_scope.md R7: the example passes every check, and each check has a configuration only it refuses. -/
theorem test_config_example : configError Config.specExample = none := by decide
theorem test_config_taps_pos : refusesWith { Config.specExample with firW := [] } .tapsPos = true := by decide
theorem test_config_weights_finite :
    refusesWith { Config.specExample with firW := [0x7F800000] } .weightsFinite = true := by decide
theorem test_config_vsupply_zero :
    refusesWith { Config.specExample with vsupply := 0 } .vsupplyPos = true := by decide
theorem test_config_vsupply_negative :
    refusesWith { Config.specExample with vsupply := 0xC0A00000 } .vsupplyPos = true := by decide
theorem test_config_station_4bit :
    refusesWith { Config.specExample with stationId := 16 } .station4bit = true := by decide
theorem test_config_period_zero :
    refusesWith { Config.specExample with samplePeriod := 0 } .periodsRange = true := by decide
theorem test_config_period_too_long :
    refusesWith { Config.specExample with txPeriod := 2 ^ 32 } .periodsRange = true := by decide
theorem test_config_txq_fits :
    refusesWith { Config.specExample with txqDepth := 10 } .txqFits = true := by decide
/-- 0x71800000 is 2^100, the bound; the next value is above it (41_filter_cascade.md R134). -/
theorem test_config_weights_bounded :
    refusesWith { Config.specExample with firW := [0x71800001] } .weightsBounded = true := by decide
theorem test_config_weight_at_bound :
    configError { Config.specExample with firW := [0xF1800000] } = none := by decide
theorem test_config_expf_properties :
    refusesWith { Config.specExample with expf := .table [(1, 0)] } .expfProperties = true := by decide

/-! ## Decoding: every label and the stimulus words, bit by bit -/

theorem test_label_reset : decodeLabel 0b00000#5 = .ok .reset := rfl
theorem test_label_start : decodeLabel 0b00001#5 = .ok .start := rfl
theorem test_label_poll : decodeLabel 0b00010#5 = .ok .poll := rfl
theorem test_label_trig : decodeLabel 0b00011#5 = .ok .trig := rfl
theorem test_label_emit : decodeLabel 0b00100#5 = .ok .emit := rfl
theorem test_label_time : decodeLabel 0b00101#5 = .ok .time := rfl
theorem test_label_tick : decodeLabel 0b01000#5 = .ok .tick := rfl
theorem test_label_sample : decodeLabel 0b01001#5 = .ok .sample := rfl
theorem test_label_convert : decodeLabel 0b01010#5 = .ok .convert := rfl
theorem test_label_ewma : decodeLabel 0b01011#5 = .ok .ewma := rfl
theorem test_label_hpush : decodeLabel 0b01100#5 = .ok .hpush := rfl
theorem test_label_notch : decodeLabel 0b01101#5 = .ok .notch := rfl
theorem test_label_fir : decodeLabel 0b01110#5 = .ok .fir := rfl
theorem test_label_xmit : decodeLabel 0b10000#5 = .ok .xmit := rfl
theorem test_label_value : decodeLabel 0b10001#5 = .ok .value := rfl
theorem test_label_crc8 : decodeLabel 0b10010#5 = .ok .crc8 := rfl
theorem test_label_pack_bin : decodeLabel 0b10011#5 = .ok .packBin := rfl
theorem test_label_pack_txt : decodeLabel 0b10100#5 = .ok .packTxt := rfl
theorem test_label_diag : decodeLabel 0b10101#5 = .ok .diag := rfl
theorem test_label_reserved : decodeLabel 0b01111#5 = .error .reservedLabel := rfl
/-- The table's row is read from the low five bits. -/
theorem test_table_word : decodeTableWord 8 0b00001101 = some .notch := rfl

/-- V-LBL-2 to V-LBL-8, and P1's `poll @1 code=512`. -/
theorem test_word_start : decodeWord 0 0x080000000064#48 = .ok (.start 100) := rfl
theorem test_word_trig : decodeWord 0 0x1800000000FA#48 = .ok (.trig 250) := rfl
theorem test_word_emit : decodeWord 0 0x200300000000#48 = .ok (.emit 3) := rfl
theorem test_word_reset : decodeWord 0 0x000000000000#48 = .ok .reset := rfl
theorem test_word_poll : decodeWord 0 0x120000000001#48 = .ok (.poll 1 (some 512)) := rfl
theorem test_word_reserved : decodeWord 0 0x300000000000#48 = .error .reservedLabel := rfl
theorem test_word_poll_code : decodeWord 0 0x140000000001#48 = .error .badStimulus := rfl
theorem test_word_tick : decodeWord 0 0x400000000000#48 = .error .badStimulus := rfl
/-- P4: the field 1 after the time 0xFFFFFFFF is the time 0x100000001. -/
theorem test_word_time_recovered :
    decodeWord 0xFFFFFFFF 0x13FF00000001#48 = .ok (.poll 0x100000001 (some 1023)) := rfl
/-- P1's words of `poll @1..3 code=512`. -/
theorem test_encode_range :
    encodeLine (.pollRange 1 3 (some 512)) = [0x120000000001#48, 0x120000000002#48, 0x120000000003#48] := by decide

/-! ## The host's two words: the table's row is decoded, and it is the next step's operation -/

theorem test_fetch_word_runs : step (State.reset.withFetchWord 5 0x05) = exec .time State.reset := rfl
theorem test_fetch_word_runs_part : step (State.reset.withFetchWord 5 0x0D) = exec .notch State.reset := rfl
/-- 30_encoding.md R71: a sub-operation happens only inside its composite. -/
theorem test_part_outside_composite :
    step (withInput (.op 0x0D) running) = .refused .outsideComposite
      ∧ step (withInput (.op 0x10) running) = .refused .outsideComposite := ⟨rfl, rfl⟩

/-! ## Numbers (00_scope.md R6, R10) -/

/-- BETA is 1.0 - ALPHA. -/
theorem test_beta : f32sub 0x3F800000 0x3F733333 = 0x3D4CCCD0 := by decide +kernel
theorem test_i2f : i2f 1023 = 0x447FC000 := by decide +kernel
/-- 1 + 2^-24 is a tie and goes to the even 1.0. -/
theorem test_add_tie : f32add 0x3F800000 0x33800000 = 0x3F800000 := by decide +kernel
theorem test_exp_one : expf .correctlyRounded 0 = 0x3F800000 := by decide +kernel

/-! ## SAMPLE: V-SMP-6, V-SMP-9, V-SMP-11 -/

theorem test_sample_640 :
    nextHas (exec .sample (withCode 640 running)) (fun s => decide (s.locals.v = 0x4048320D)) = true := by
  decide +kernel
theorem test_sample_1023 :
    nextHas (exec .sample (withCode 1023 running)) (fun s => decide (s.locals.v = 0x40A00000)) = true := by
  decide +kernel

/-! ## CONVERT: V-CNV-6 and V-CNV-7, either side of the clamp -/

theorem test_convert_below :
    nextHas (exec .convert (withLocals running fun l => { l with v := 0x4048320D }))
      (fun s => decide (s.luxLast = 0x4478E088)) = true := by
  decide +kernel
theorem test_convert_clamped :
    nextHas (exec .convert (withLocals running fun l => { l with v := 0x40488221 }))
      (fun s => decide (s.luxLast = 0x4479C000)) = true := by
  decide +kernel

/-! ## EWMA: V-EWMA-1 and V-EWMA-7 -/

theorem test_ewma_first :
    nextHas (exec .ewma (withLocals running fun l => { l with lux := 0x4479C000 }))
      (fun s => decide (s.smoothed = 0x4247CCD0)) = true := by
  decide +kernel
theorem test_ewma_operands :
    nextHas (exec .ewma (withLocals { running with smoothed := 0x43EB3545 } fun l => { l with lux := 0x422883C2 }))
      (fun s => decide (s.smoothed = 0x43E0803B)) = true := by
  decide +kernel

/-! ## HPUSH: V-HP-2 -/

theorem test_hpush :
    nextHas (exec .hpush (withLocals { running with rawHist := [0x40400000, 0x40000000, 0x3F800000] }
        fun l => { l with lux := 0x40800000 }))
      (fun s => decide (s.rawHist = [0x40800000, 0x40400000, 0x40000000])) = true := by
  decide

/-! ## NOTCH: V-NOTCH-3 and V-NOTCH-5 -/

theorem test_notch_second :
    nextHas (exec .notch { running with notchHist := [0, 0x3F800000] })
      (fun s => decide (s.notchOut = 0xBF7068DC ∧ s.notchHist = [0xBF7068DC, 0])) = true := by
  decide +kernel
theorem test_notch_steady :
    nextHas (exec .notch { running with
        notchHist := [0x4479C000, 0x4479C000], rawHist := [0x4479C000, 0x4479C000, 0x4479C000] })
      (fun s => decide (s.notchOut = 0x4479B99A)) = true := by
  decide +kernel

/-! ## FIR: V-FIR-5 (the order of the weights) and V-FIR-9 (never -0.0) -/

theorem test_fir_order :
    nextHas (exec .fir { running with rawHist := [0x43EB3545, 0x422883C2, 0x41BBA375, 0, 0] })
      (fun s => decide (s.firOut = 0x4281B2D5)) = true := by
  decide +kernel
theorem test_fir_negative_zeros :
    nextHas (exec .fir { running with rawHist := List.replicate 5 0x80000000 })
      (fun s => decide (s.firOut = 0)) = true := by
  decide +kernel

/-! ## TICK: V-TICK-1 -/

theorem test_tick_registers :
    nextHas (exec .tick (withCode 512 running))
      (fun s => decide (s.smoothed = 0x41BC2AA1 ∧ s.notchOut = 0x43E408C4 ∧ s.firOut = 0x423C2A9E)) = true := by
  decide +kernel
theorem test_tick_history :
    nextHas (exec .tick (withCode 512 running))
      (fun s => decide (s.luxLast = 0x43EB3545 ∧ s.rawHist = [0x43EB3545, 0, 0, 0, 0])) = true := by
  decide +kernel

/-! ## VALUE: V-VAL-8 in both frame modes -/

theorem test_value_binary :
    nextHas (exec .value { running with smoothed := 0x457FFE66 }) (fun s => decide (s.locals.val = 4095)) = true := by
  decide +kernel
theorem test_value_text :
    nextHas (exec .value (withConfig { Config.specExample with frameMode := .text }
        { running with smoothed := 0x457FFE66 }))
      (fun s => decide (s.locals.val = 999)) = true := by
  decide +kernel

/-! ## CRC8: V-CRC-10 and V-CRC-12 -/

theorem test_crc8_traced :
    nextHas (exec .crc8 (withLocals running fun l => { l with msg := [0x53, 0xE7] }))
      (fun s => decide (s.locals.crc = 0x88)) = true := by
  decide +kernel
theorem test_crc8_check :
    crc8Of [0x31, 0x32, 0x33, 0x34, 0x35, 0x36, 0x37, 0x38, 0x39] = 0xF4 := by decide +kernel

/-! ## PACK_BIN: V-BIN-2 and V-BIN-5 -/

theorem test_pack_bin :
    nextHas (exec .packBin (withLocals running fun l => { l with val := 999 }))
      (fun s => decide (s.locals.frame = [0x53, 0xE7, 0x88])) = true := by
  decide +kernel
theorem test_pack_bin_station :
    nextHas (exec .packBin (withConfig { Config.specExample with stationId := 10 }
        (withLocals running fun l => { l with val := 470 })))
      (fun s => decide (s.locals.frame = [0xA1, 0xD6, 0x21])) = true := by
  decide +kernel

/-! ## PACK_TXT: V-TXT-3 and V-TXT-4 -/

theorem test_pack_txt :
    nextHas (exec .packTxt (withConfig { Config.specExample with stationId := 1 }
        (withLocals running fun l => { l with val := 23 })))
      (fun s => decide (s.locals.frame = [0x41, 0x30, 0x31, 0x48, 0x30, 0x32, 0x33, 0x43, 0x30, 0x30, 0x21])) = true := by
  decide +kernel
theorem test_pack_txt_station :
    nextHas (exec .packTxt (withConfig { Config.specExample with stationId := 10 }
        (withLocals running fun l => { l with val := 470 })))
      (fun s => decide (s.locals.frame = [0x41, 0x31, 0x30, 0x48, 0x34, 0x37, 0x30, 0x43, 0x30, 0x30, 0x21])) = true := by
  decide +kernel

/-! ## DIAG and XMIT: P1's record order and frame at 1000 (value 467, frame 51 D3 2E) -/

theorem test_diag_order :
    nextHas (exec .diag { running with luxLast := 1, smoothed := 2, notchOut := 3, firOut := 4 })
      (fun s => decide (s.events = [.diag { lux := 1, smoothed := 2, notch := 3, fir := 4 }])) = true := by
  decide
theorem test_xmit_frame :
    nextHas (exec .xmit { running with smoothed := 0x43E9D0C4 })
      (fun s => decide (s.txq = [0x51, 0xD3, 0x2E] ∧ s.locals = Locals.empty)) = true := by
  decide +kernel

/-! ## The agents' steps -/

/-- 60_exceptions.md R202: TRIG in the hold moves the transmit timer, and the hold stays. -/
theorem test_trig_keeps_hold :
    nextHas (exec .trig { edgeSeen with txq := List.replicate 14 0, time := 1000, pendingSend := true })
      (fun t => decide (t.lastTransmitTime = 1000 ∧ transmitDue t (nowOf t) = false ∧ pollEnabled t = false)) = true := by
  decide
/-- 42_scheduler_trigger.md R161: the EMIT that makes the room for three bytes lifts the hold. -/
theorem test_emit_lifts_hold :
    nextHas (exec .emit { running with
        txq := List.replicate 14 0, holding := true, ports := { running.ports with txReady := true } })
      (fun t => decide (t.txq.length = 13 ∧ t.holding = false ∧ pollEnabled t = true)) = true := by
  decide

theorem test_reset_state :
    nextHas (exec .reset { edgeSeen with luxLast := 1, pendingSend := true, txq := [1], time := 7 })
      (fun s => decide (s.fsm = .init ∧ s.luxLast = 0 ∧ s.pendingSend = false ∧ s.txq = [] ∧ s.time = 7)) = true := by
  decide
/-- P4: START at 0xFFFFFFF8. -/
theorem test_start :
    nextHas (exec .start { running with fsm := .init, time := 0xFFFFFFF8 })
      (fun s => decide (s.fsm = .run ∧ s.lastSampleTime = 0xFFFFFFF8 ∧ s.lastTransmitTime = 0xFFFFFFF8)) = true := by
  decide
theorem test_start_waits :
    nextHas (exec .start State.reset) (fun s => decide (s = State.reset)) = true := by decide
/-- P4: at 0x100000001 nine milliseconds have elapsed from 0xFFFFFFF8, and no tick runs. -/
theorem test_poll_before_period :
    nextHas (exec .poll { running with
        time := 0x100000001, lastSampleTime := 0xFFFFFFF8, lastTransmitTime := 0xFFFFFFF8 })
      (fun s => decide (s.events = [] ∧ s.lastSampleTime = 0xFFFFFFF8)) = true := by
  decide
/-- P4: at 0x100000002 ten have elapsed; the tick sets lst to 2 and smoothed to 49.95. -/
theorem test_poll_tick_after_wrap :
    nextHas (exec .poll (withCode 1023 { running with
        time := 0x100000002, lastSampleTime := 0xFFFFFFF8, lastTransmitTime := 0xFFFFFFF8 }))
      (fun s => decide (s.lastSampleTime = 2 ∧ s.smoothed = 0x4247CCD0 ∧ s.lastTransmitTime = 0xFFFFFFF8)) = true := by
  decide +kernel
/-- P2: TRIG at 250. -/
theorem test_trig :
    nextHas (exec .trig { edgeSeen with time := 250 })
      (fun s => decide (s.pendingSend = true ∧ s.lastTransmitTime = 250 ∧ s.edge = false)) = true := by
  decide
/-- P5: the head of the text frame leaves first. -/
theorem test_emit :
    nextHas (exec .emit { running with txq := [0x41, 0x31], ports := { running.ports with txReady := true } })
      (fun s => decide (s.txq = [0x31] ∧ s.events = [.wire 0x41])) = true := by
  decide
theorem test_time :
    nextHas (exec .time { running with ports := { running.ports with advance := 4 } })
      (fun s => decide (s.time = 5)) = true := by
  decide

/-! ## Scenario lines -/

/-- 30_encoding.md R87: a range whose last time is its first is one POLL. -/
theorem test_range_of_one :
    nextHas (step (withInput (.line (.pollRange 3 3 none)) running))
      (fun s => decide (s.time = 3 ∧ s.inputs = [])) = true := by
  decide
/-- P5: without its `emit 6` line the POLL at 160 would be refused. -/
theorem test_hold_refuses_poll_line :
    step (withInput (.line (.poll 1000 (some 256))) { holding with txq := List.replicate 14 0 }) =
      .refused .pollNotEnabled := rfl
theorem test_emit_line_leaves_rest :
    nextHas (step (withInput (.line (.emit 2)) { running with txq := [1, 2, 3] }))
      (fun s => decide (s.txq = [2, 3] ∧ s.inputs = [.line (.emit 1)])) = true := by
  decide

/-! ## Per-instruction lemma family in use -/

theorem test_label_classes : Laws.LabelClasses.Statement .notch := Laws.LabelClasses.notch

/-! ## Witnesses: for each statement's hypotheses a state and operands that meet all of them -/

theorem witness_reserved_label_step :
    configError State.reset.cfg = none ∧ (withInput (.op 0x06) State.reset).inputs = [.op 0x06]
      ∧ step (withInput (.op 0x06) State.reset) = .refused .reservedLabel
      ∧ step (withInput (.op 0x18) State.reset) = .refused .reservedLabel
      ∧ step (withInput (.op 0x1F) State.reset) = .refused .reservedLabel := by
  exact ⟨by decide, rfl, rfl, rfl, rfl⟩

/-- V-LBL-6, and the last reserved label. -/
theorem witness_reserved_word_step :
    configError State.reset.cfg = none
      ∧ ((0x300000000000#48).extractLsb' 43 5 : BitVec 5) = 0x06
      ∧ step (withInput (.word 0x300000000000#48) State.reset) = .refused .reservedLabel
      ∧ step (withInput (.word 0xF80000000000#48) State.reset) = .refused .reservedLabel := by
  exact ⟨by decide, by decide, rfl, rfl⟩

/-- V-LBL-7, V-LBL-8, and the labels 0x05 and 0x15. -/
theorem witness_bad_stimulus :
    configError State.reset.cfg = none
      ∧ ((0x140000000001#48).extractLsb' 43 5 : BitVec 5) = 0x02
      ∧ 1023 < ((0x140000000001#48).extractLsb' 32 11 : BitVec 11).toNat
      ∧ step (withInput (.word 0x140000000001#48) State.reset) = .refused .badStimulus
      ∧ step (withInput (.word 0x400000000000#48) State.reset) = .refused .badStimulus
      ∧ step (withInput (.word 0x280000000000#48) State.reset) = .refused .badStimulus
      ∧ step (withInput (.word 0xA80000000000#48) State.reset) = .refused .badStimulus := by
  exact ⟨by decide, by decide, by decide, rfl, rfl, rfl, rfl⟩

/-- Every kind of line, with the largest gap of time that can be recovered and the smallest. -/
theorem witness_encodable :
    encodableFrom 5
      [.reset, .start (5 + (2 ^ 32 - 1)), .trig (5 + (2 ^ 32 - 1)), .poll (2 ^ 32 + 5) (some 1023), .emit 2047,
        .pollRange (2 ^ 32 + 5) (2 ^ 32 + 6) (some 0)] := by
  simp [encodableFrom, Line.wellFormed, codeFits, Line.timeAfter]

theorem witness_accepted_word : decodeWord 0 0x13FF00000001#48 = .ok (.poll 1 (some 1023)) := rfl

theorem witness_step_label :
    configError State.reset.cfg = none ∧ (withInput (.op 0x0D) State.reset).inputs = [.op 0x0D]
      ∧ decodeLabel 0x0D = .ok .notch ∧ Instr.notch.wellFormed = true ∧ Instr.notch.labelClass ≠ .agentStep
      ∧ State.reset.part ≠ some .notch ∧ { State.reset with part := some .notch }.part = some .notch
      ∧ decodeLabel 0x05 = .ok .time ∧ Instr.time.labelClass = .agentStep
      ∧ State.reset.part = none ∧ decodeTableWord 5 0x0D = some .notch := by
  exact ⟨by decide, rfl, rfl, rfl, by decide, by decide, rfl, rfl, rfl, rfl, rfl⟩

theorem witness_step_word :
    configError State.reset.cfg = none
      ∧ (withInput (.word 0x080000000064#48) State.reset).inputs = [.word 0x080000000064#48]
      ∧ decodeWord State.reset.time 0x080000000064#48 = .ok (.start 100) := by
  exact ⟨by decide, rfl, rfl⟩

/-- All five clauses, each at a time where it begins or ends. -/
theorem witness_poll_line :
    configError running.cfg = none
      ∧ (4 < { running with time := 5 }.time)
      ∧ (State.reset.time ≤ 0 ∧ pollEnabled State.reset = false)
      ∧ (pollEnabled { running with time := 10 } = true
          ∧ sampleDue { running with time := 10 } (nowOf { running with time := 10 }) = true)
      ∧ (pollEnabled { running with time := 9 } = true
          ∧ sampleDue { running with time := 9 } (nowOf { running with time := 9 }) = false) := by
  decide

theorem witness_poll_line_steps :
    step (withInput (.line (.poll 4 (some 0))) { running with time := 5 }) = .refused .timeDecreases
      ∧ step (withInput (.line (.poll 0 (some 0))) State.reset) = .refused .pollNotEnabled
      ∧ step (withInput (.line (.poll 10 none)) running) = .refused .missingCode
      ∧ nextHas (step (withInput (.line (.poll 9 none)) running)) (fun t => decide (t.time = 9)) = true
      ∧ nextHas (step (withInput (.line (.poll 9 (some 1023))) running))
          (fun t => decide (t.ports.adcCode = 1023)) = true := by
  exact ⟨rfl, rfl, rfl, by decide, by decide⟩

theorem witness_other_lines :
    configError running.cfg = none
      ∧ nextHas (step (withInput (.line .reset) running)) (fun t => decide (t.fsm = .init)) = true
      ∧ nextHas (step (withInput (.line (.start 0)) State.reset)) (fun t => decide (t.fsm = .run)) = true
      ∧ nextHas (step (withInput (.line (.trig 0)) runningIrq)) (fun t => decide (t.pendingSend = true)) = true
      ∧ nextHas (step (withInput (.line (.pollRange 1 2 none)) running))
          (fun t => decide (t.inputs = [.line (.pollRange 2 2 none)])) = true
      ∧ nextHas (step (withInput (.line (.pollRange 2 1 none)) running))
          (fun t => decide (t.time = 0 ∧ t.inputs = [])) = true
      ∧ nextHas (step (withInput (.line (.emit 0)) running)) (fun t => decide (t.inputs = [])) = true
      ∧ nextHas (step (withInput (.line (.emit 1)) { running with txq := [9] }))
          (fun t => decide (t.txq = [] ∧ t.inputs = [])) = true := by
  decide

theorem witness_other_lines_refused :
    step (withInput (.line (.start 4)) { State.reset with time := 5 }) = .refused .timeDecreases
      ∧ step (withInput (.line (.trig 4)) { runningIrq with time := 5 }) = .refused .timeDecreases
      ∧ step (withInput (.line (.emit 2)) { running with txq := [9] }) = .refused .emitEmpty := by
  exact ⟨rfl, rfl, rfl⟩

theorem witness_levels :
    configError runningIrq.cfg = none ∧ runningIrq.ports.trigIn = false ∧ runningIrq.fsm = .run
      ∧ runningIrq.cfg.txMode = .irq ∧ runningIrq.ports.rst = false
      ∧ nextHas (step (withInput (.level { Ports.low with trigIn := true }) runningIrq))
          (fun t => t.edge) = true
      ∧ nextHas (step (withInput (.level { Ports.low with rst := true }) runningIrq))
          (fun t => decide (t.fsm = .init)) = true
      ∧ nextHas (step (withInput (.level { Ports.low with trigIn := true }) running))
          (fun t => decide (t.edge = false ∧ t.ports.trigIn = true)) = true := by
  decide

theorem witness_ill_formed :
    step (withConfig { Config.specExample with firW := [] } State.reset) = .refused (.illFormedConfig .tapsPos) := rfl

theorem witness_start_enabled :
    let s := { State.reset with ports := { Ports.low with diagReady := true } }
    MainRuns s ∧ s.fsm = .init ∧ s.ports.diagReady = true := by decide

theorem witness_waiting :
    (State.reset.ports.diagReady = false ∧ State.reset.fsm = .init ∧ State.reset.edge = false ∧ State.reset.txq = [])
      ∧ transmitDue holding (nowOf holding) = true
      ∧ { holding with time := 0, holding := true }.holding = true ∧ Instr.tick.labelClass ≠ .agentStep
      ∧ ¬ MainRuns { running with ports := { running.ports with rst := true } }
      ∧ ¬ MainRuns { running with stuck := some .adcOutOfRange }
      ∧ holding.cfg.txqDepth < holding.txq.length + frameLen holding.cfg.frameMode := by
  decide

theorem witness_trig_enabled :
    edgeSeen.ports.rst = false ∧ edgeSeen.edge = true ∧ edgeSeen.fsm = .run ∧ edgeSeen.cfg.txMode = .irq := by
  decide

theorem witness_emit_enabled :
    let s := { running with txq := [7], ports := { running.ports with txReady := true } }
    s.ports.rst = false ∧ s.txq = 7 :: [] ∧ s.ports.txReady = true := by decide

/-- A POLL that ticks and transmits, the queue filled to the last byte. -/
theorem witness_poll :
    let s := withCode 1023 { running with time := 1000, txq := List.replicate 13 0 }
    MainRuns s ∧ s.fsm = .run ∧ HistoryShape s ∧ sampleDue s (nowOf s) = true ∧ s.ports.adcCode ≤ 1023
      ∧ transmitDue s (nowOf s) = true ∧ s.txq.length + frameLen s.cfg.frameMode ≤ s.cfg.txqDepth := by
  decide

/-- The last millisecond before TX_PERIOD; the tick period is longer. -/
theorem witness_no_frame :
    let s := { runningIrq with
      time := 999, pendingSend := true, cfg := { runningIrq.cfg with samplePeriod := 2000 } }
    s.ports.rst = false ∧ s.fsm = .run ∧ s.cfg.txMode = .irq
      ∧ (nowOf s - s.lastTransmitTime).toNat < s.cfg.txPeriod
      ∧ nextHas (exec .poll s) (fun u => decide (u.txq = [] ∧ u.pendingSend = true)) = true := by
  decide

theorem witness_sample :
    (2 : Nat) ^ 24 ≤ 2 ^ 24 ∧ MainRuns (withCode 0 running) ∧ MainRuns (withCode 1023 running) ∧ (withCode 0 running).ports.adcCode ≤ 1023
      ∧ (withCode 1023 running).ports.adcCode ≤ 1023 := by decide

/-- V-SMP-11. -/
theorem witness_out_of_range :
    let s := withCode 1024 { running with time := 10 }
    MainRuns s ∧ 1023 < s.ports.adcCode ∧ pollEnabled s = true ∧ sampleDue s (nowOf s) = true := by decide

/-- MAIN is then stuck, and a code in range does not free it (60_exceptions.md R202). -/
theorem witness_out_of_range_sticks :
    exec .sample (withCode 1024 running) = .next { withCode 1024 running with stuck := some .adcOutOfRange }
      ∧ nextHas (exec .poll (withCode 0 { running with time := 10, stuck := some .adcOutOfRange }))
          (fun t => decide (t.events = [] ∧ t.stuck = some .adcOutOfRange)) = true := by
  exact ⟨rfl, by decide⟩

theorem witness_main_runs : MainRuns running := by decide

theorem witness_hpush : MainRuns running ∧ running.rawHist ≠ [] := by decide

theorem witness_notch :
    MainRuns running ∧ running.notchHist = [0, 0] ∧ running.rawHist = 0 :: 0 :: 0 :: [0, 0] := by decide

theorem witness_fir : MainRuns running ∧ running.cfg.firW.length ≤ running.rawHist.length := by decide

theorem witness_tick :
    let s := withCode 1023 running
    MainRuns s ∧ s.ports.adcCode ≤ 1023 ∧ s.notchHist = [0, 0] ∧ s.rawHist = 0 :: 0 :: 0 :: [0, 0]
      ∧ s.cfg.firW.length ≤ s.rawHist.length := by decide

/-- Each clause on the accumulator's value: NaN, both infinities, below 1, at and above the limit, between. -/
theorem witness_value :
    f32IsNaN 0x7FC00000 = true ∧ (f32IsFinite 0x3F7FFFFF = true ∧ f32Val 0x3F7FFFFF < 2 ^ 149)
      ∧ (f32IsFinite 0x457FF000 = true ∧ (4095 : Int) * 2 ^ 149 ≤ f32Val 0x457FF000)
      ∧ (f32IsFinite 0x457FEFFF = true ∧ 0 ≤ f32Val 0x457FEFFF ∧ f32Val 0x457FEFFF < (4095 : Int) * 2 ^ 149) := by
  decide +kernel

theorem witness_pack_bin :
    let s := withConfig { Config.specExample with stationId := 15 } (withLocals running fun l => { l with val := 4095 })
    MainRuns s ∧ s.cfg.stationId ≤ 15 ∧ s.locals.val ≤ 4095 := by decide

theorem witness_pack_txt :
    let s := withConfig { Config.specExample with stationId := 15 } (withLocals running fun l => { l with val := 999 })
    MainRuns s ∧ s.cfg.stationId ≤ 15 ∧ s.locals.val ≤ 999 := by decide

theorem witness_xmit :
    let s := { running with txq := List.replicate 13 0 }
    MainRuns s ∧ s.txq.length + frameLen s.cfg.frameMode ≤ s.cfg.txqDepth := by decide

/-- The largest finite value, the smallest, and a divisor that is not 0. -/
theorem witness_finite_operands :
    f32IsFinite 0x7F7FFFFF = true ∧ f32IsFinite 0x80000001 = true ∧ f32Val 0x80000001 ≠ 0
      ∧ f32IsFinite (f32mul 0x7F7FFFFF 0x80000001) = true := by
  decide +kernel

/-- A well-formed configuration, of the correctly rounded exponential and of a table, with arguments at the ends. -/
theorem witness_expf :
    configError Config.specExample = none
      ∧ configError { Config.specExample with expf := .table [(1, 0x3F800000), (0x7F800000, 0x7F800000)] } = none
      ∧ (0 : F32).toNat ≤ (0x7F800000 : F32).toNat ∧ f32IsNaN 0x80000000 = false := by
  decide

theorem witness_voltage : configError Config.specExample = none ∧ 0 ≤ 1023 ∧ 1023 ≤ 1023 := by decide

theorem witness_lux :
    configError Config.specExample = none ∧ (0x7F800000 : F32).toNat ≤ 0x7F800000 := by decide

/-- V-CNV-6 and V-CNV-7 are the two sides of the clamp. -/
theorem witness_clamp :
    configError Config.specExample = none ∧ f32IsNaN 0x4048320D = false ∧ 0 ≤ f32Val 0x4048320D
      ∧ f32IsNaN 0x80000000 = false ∧ 0 ≤ f32Val 0x80000000
      ∧ f32Val (rawLux Config.specExample 0x4048320D) ≤ 999 * 2 ^ 149
      ∧ 999 * 2 ^ 149 < f32Val (rawLux Config.specExample 0x40488221) := by
  decide +kernel

theorem witness_ewma_range : InDisplayRange 0x4479C000 ∧ InDisplayRange 0 := by decide

theorem witness_fir_operands :
    (∀ x ∈ [(0x80000000 : F32), 0x7F7FFFFF], f32IsFinite x = true) ∧ f32IsFinite 0x3F800000 = true := by
  refine ⟨fun x hx => ?_, by decide⟩
  simp only [List.mem_cons, List.not_mem_nil, or_false] at hx
  rcases hx with rfl | rfl <;> decide

theorem witness_fir_samples :
    configError Config.specExample = none ∧ ∀ x ∈ [(0x4479C000 : F32), 0], InDisplayRange x := by
  refine ⟨by decide, fun x hx => ?_⟩
  simp only [List.mem_cons, List.not_mem_nil, or_false] at hx
  rcases hx with rfl | rfl <;> decide

theorem witness_crc : [(1 : Byte), 2].length = [(3 : Byte), 4].length ∧ 0 < 8 ∧ 7 < 8 := by decide

theorem witness_round_trip : 15 ≤ 15 ∧ 4095 ≤ 4095 ∧ binHead 15 4095 = [0xFF, 0xFF] := by decide

theorem witness_gap : (2 ^ 32 - 1 : Nat) < 2 ^ 32 := by decide

theorem witness_inv_step : Inv State.reset ∧ step State.reset = .next State.reset := ⟨by decide, rfl⟩

theorem witness_inv_running : Inv (withCode 1023 edgeSeen) ∧ (withCode 1023 edgeSeen).ports.adcCode ≤ 1023 := by
  decide

/-- Notch outputs far from 0, as large as two negative and positive outputs of P3. -/
theorem witness_registers_finite :
    let s := { running with notchHist := [0xC22437C0, 0x44662EEA], notchOut := 0xC22437C0 }
    configError s.cfg = none ∧ Inv s ∧ NotchBound s := by
  decide +kernel

theorem witness_crc_pure :
    MainRuns running ∧ MainRuns runningIrq ∧ running.locals.msg = runningIrq.locals.msg := by decide

theorem witness_loop : Inv State.reset ∧ State.reset.inputs = [] ∧ State.reset.ports.adcCode ≤ 1023 := by decide

theorem witness_exec_next : exec .reset State.reset = .next State.reset := rfl

/-- START leaves INIT, RESET enters it, TRIG sets the request. -/
theorem witness_mode_changes :
    nextHas (exec .start { State.reset with ports := { Ports.low with diagReady := true } })
        (fun t => decide (t.fsm = .run)) = true
      ∧ nextHas (exec .reset running) (fun t => decide (t.fsm = .init)) = true
      ∧ held holding = true ∧ held { holding with txq := List.replicate 13 0 } = false
      ∧ nextHas (step (withInput (.line (.emit 1)) holding)) (fun t => !held t) = true
      ∧ edgeSeen.pendingSend = false ∧ nextHas (exec .trig edgeSeen) (fun t => t.pendingSend) = true := by
  decide

theorem witness_queue_order :
    Instr.emit ≠ .reset ∧ nextHas (exec .emit { running with
        txq := [7], ports := { running.ports with txReady := true } }) (fun t => decide (t.txq = [])) = true := by
  decide

theorem witness_cadences :
    let s := { running with
      time := 5, lastSampleTime := 5, lastTransmitTime := 5, ports := { running.ports with txReady := true } }
    Inv s ∧ s.cfg.txMode = .timer ∧ s.fsm = .run ∧ MainRuns s ∧ s.ports.adcCode ≤ 1023
      ∧ s.ports.txReady = true ∧ s.ports.advance = 0 ∧ s.txq = [] ∧ s.lastSampleTime = nowOf s
      ∧ s.lastTransmitTime = nowOf s := by
  decide

end Sys2Proof.Tests
end

section
/-! SUPPORT. Rounding (00_scope.md R10): a pattern of sign 0 is a significand in its binade's unit, magnitudes rise
with their patterns, and a rounded magnitude is the nearest one, ties to even. -/

namespace Sys2Proof.Machine

/-! ## Patterns without their sign -/

/-- The magnitude a pattern of sign 0 stands for, in units of 2^-149. -/
def patMag (p : Nat) : Nat :=
  if p / 2 ^ 23 = 0 then p % 2 ^ 23 else (2 ^ 23 + p % 2 ^ 23) * 2 ^ (p / 2 ^ 23 - 1)

theorem f32Mag_eq_patMag (a : F32) : f32Mag a = patMag (a.toNat % 2 ^ 31) := by
  have hexp : f32Exp a = a.toNat % 2 ^ 31 / 2 ^ 23 := by simp only [f32Exp]; omega
  have hfrac : f32Frac a = a.toNat % 2 ^ 31 % 2 ^ 23 := by simp only [f32Frac]; omega
  rw [f32Mag, patMag, hexp, hfrac]

theorem f32IsFinite_iff (a : F32) : f32IsFinite a = true ↔ a.toNat % 2 ^ 31 < infBits := by
  simp [f32IsFinite, f32Exp, infBits]; omega

/-- A significand of at most 24 bits, or 2^24, at a binade's unit: the two parts of the pattern add up. -/
theorem patMag_add {sh m : Nat} (hm : m ≤ 2 ^ 24) (hlow : sh = 0 ∨ 2 ^ 23 ≤ m) :
    patMag (sh * 2 ^ 23 + m) = m * 2 ^ sh := by
  obtain h | ⟨hlow, hlt⟩ | rfl : m < 2 ^ 23 ∨ (2 ^ 23 ≤ m ∧ m < 2 ^ 24) ∨ m = 2 ^ 24 := by omega
  · obtain rfl : sh = 0 := by omega
    rw [patMag, if_pos (by omega)]; simp; omega
  · have hdiv : (sh * 2 ^ 23 + m) / 2 ^ 23 = sh + 1 := by omega
    have hmod : 2 ^ 23 + (sh * 2 ^ 23 + m) % 2 ^ 23 = m := by omega
    rw [patMag, hdiv, hmod]; simp
  · have hdiv : (sh * 2 ^ 23 + 2 ^ 24) / 2 ^ 23 = sh + 2 := by omega
    have hmod : (sh * 2 ^ 23 + 2 ^ 24) % 2 ^ 23 = 0 := by omega
    rw [patMag, hdiv, hmod, if_neg (by omega), Nat.add_sub_assoc (by omega), pow_add]; ring

/-- Every pattern splits into a binade's unit and a significand below 2^24. -/
theorem pattern_split (p : Nat) : ∃ sh m, p = sh * 2 ^ 23 + m ∧ m < 2 ^ 24 ∧ (sh = 0 ∨ 2 ^ 23 ≤ m) :=
  ⟨p / 2 ^ 23 - 1, p - (p / 2 ^ 23 - 1) * 2 ^ 23, by omega, by omega, by omega⟩

theorem patMag_strictMono : StrictMono patMag := by
  refine strictMono_nat_of_lt_succ fun p => ?_
  obtain ⟨sh, m, rfl, hm, hlow⟩ := pattern_split p
  rw [add_assoc, patMag_add (by omega) hlow, patMag_add (by omega) (by omega)]
  exact Nat.mul_lt_mul_of_pos_right (by omega) (by positivity)

/-- From its binade on, a pattern's magnitude is a multiple of the binade's unit. -/
theorem unit_dvd_patMag {sh p : Nat} (h : sh = 0 ∨ (sh + 1) * 2 ^ 23 ≤ p) : 2 ^ sh ∣ patMag p := by
  obtain ⟨sh', m, rfl, hm, hlow⟩ := pattern_split p
  rw [patMag_add (by omega) hlow]
  exact Dvd.dvd.mul_left (Nat.pow_dvd_pow 2 (by omega)) m

/-! ## Rounding to nearest, ties to even -/

/-- The rounded quotient is within half a unit, and is even when it is exactly half a unit off. -/
theorem rneDiv_half {num den : Nat} (hd : 0 < den) :
    2 * ((rneDiv num den * den : Nat) - num : Int).natAbs ≤ den ∧
      (2 * ((rneDiv num den * den : Nat) - num : Int).natAbs = den → rneDiv num den % 2 = 0) := by
  obtain ⟨lower, upper⟩ := rneDiv_bounds (num := num) hd
  have tie : ∀ k, 2 * num = (2 * k + 1) * den → rneDiv num den = if k % 2 = 1 then k + 1 else k :=
    fun k => rneDiv_tie hd
  generalize rneDiv num den = r at *
  rw [show (2 * r + 1) * den = 2 * (r * den) + den by ring] at lower
  rw [show 2 * r * den = 2 * (r * den) by ring] at upper
  refine ⟨by omega, fun h => ?_⟩
  obtain hup | hdown : 2 * num = 2 * (r * den) + den ∨ 2 * num + den = 2 * (r * den) := by omega
  · have := tie r (by rw [hup]; ring)
    split at this <;> omega
  · obtain ⟨k, rfl⟩ : ∃ k, r = k + 1 := Nat.exists_eq_succ_of_ne_zero (by rintro rfl; omega)
    have := tie k (by nlinarith)
    split at this <;> omega

/-- No whole number is nearer to the quotient than the rounded one, and one as near is it or leaves it even. -/
theorem rneDiv_nearest {num den : Nat} (hd : 0 < den) (k : Nat) :
    ((rneDiv num den * den : Nat) - num : Int).natAbs ≤ ((k * den : Nat) - num : Int).natAbs ∧
      (((rneDiv num den * den : Nat) - num : Int).natAbs = ((k * den : Nat) - num : Int).natAbs →
        k = rneDiv num den ∨ rneDiv num den % 2 = 0) := by
  obtain ⟨half, even⟩ := rneDiv_half (num := num) hd
  generalize rneDiv num den = r at *
  rcases lt_trichotomy k r with h | rfl | h
  · have : k * den + den ≤ r * den := by nlinarith
    omega
  · simp
  · have : r * den + den ≤ k * den := by nlinarith
    omega

/-- Rounding chooses a binade's unit `2 ^ sh`, 1 or one the quotient has 24 bits of, and rounds to a multiple of it. -/
theorem roundMag_binade (num : Nat) {den : Nat} (hd : 0 < den) :
    ∃ sh, (sh = 0 ∨ 2 ^ 23 * (den * 2 ^ sh) ≤ num) ∧ rneDiv num (den * 2 ^ sh) ≤ 2 ^ 24 ∧
      roundMag num den = min (sh * 2 ^ 23 + rneDiv num (den * 2 ^ sh)) infBits := by
  refine ⟨Nat.log2 (num / den) - 23, or_iff_not_imp_left.mpr fun hsh => ?_, (rneDiv_binade hd).1, rfl⟩
  have hne : num / den ≠ 0 := by rintro h0; simp [h0] at hsh
  calc 2 ^ 23 * (den * 2 ^ (Nat.log2 (num / den) - 23))
      = 2 ^ (23 + (Nat.log2 (num / den) - 23)) * den := by rw [pow_add]; ring
    _ = 2 ^ Nat.log2 (num / den) * den := by rw [Nat.add_sub_cancel' (by omega)]
    _ ≤ num / den * den := Nat.mul_le_mul_right den (Nat.log2_self_le hne)
    _ ≤ num := Nat.div_mul_le_self num den

/-- The magnitude before the cut at infinity is the rounded significand in units of the binade. -/
theorem patMag_rneDiv {num den sh : Nat} (hd : 0 < den) (hsh : sh = 0 ∨ 2 ^ 23 * (den * 2 ^ sh) ≤ num)
    (hm : rneDiv num (den * 2 ^ sh) ≤ 2 ^ 24) :
    patMag (sh * 2 ^ 23 + rneDiv num (den * 2 ^ sh)) = rneDiv num (den * 2 ^ sh) * 2 ^ sh :=
  patMag_add hm (hsh.imp_right (le_rneDiv (by positivity)))

/-- The rounded magnitude is infinite from halfway between the largest finite value and 2^128 on. -/
theorem roundMag_lt_infBits_iff {num den : Nat} (hd : 0 < den) :
    roundMag num den < infBits ↔ num < (2 ^ 25 - 1) * 2 ^ 252 * den := by
  constructor
  · contrapose!
    intro h
    have hlimit : roundMag ((2 ^ 25 - 1) * 2 ^ 252) 1 = infBits := by decide +kernel
    rw [← hlimit]
    exact roundMag_mono one_pos hd (by simpa using h)
  · intro h
    obtain ⟨sh, hsh, hm, hr⟩ := roundMag_binade num hd
    have hupper := (rneDiv_bounds (num := num) (den := den * 2 ^ sh) (by positivity)).2
    generalize rneDiv num (den * 2 ^ sh) = m at *
    have hle : sh ≤ 253 := by
      obtain rfl | hsh := hsh
      · omega
      · have hlt : 2 ^ sh * (2 ^ 23 * den) < 2 ^ 254 * (2 ^ 23 * den) := by
          rw [show 2 ^ sh * (2 ^ 23 * den) = 2 ^ 23 * (den * 2 ^ sh) by ring]
          omega
        have := (Nat.pow_lt_pow_iff_right (by norm_num)).mp (Nat.lt_of_mul_lt_mul_right hlt)
        omega
    have hne : sh = 253 → m ≠ 2 ^ 24 := by
      rintro rfl rfl
      omega
    simp only [infBits] at *
    omega

/-- A finite rounded magnitude is nearest among all patterns' magnitudes, and one as near is of the same pattern or
leaves the pattern even. -/
theorem roundMag_nearest {num den : Nat} (hd : 0 < den) (hfin : roundMag num den < infBits) (c : Nat) :
    ((patMag (roundMag num den) * den : Nat) - num : Int).natAbs ≤ ((patMag c * den : Nat) - num : Int).natAbs ∧
      (((patMag (roundMag num den) * den : Nat) - num : Int).natAbs = ((patMag c * den : Nat) - num : Int).natAbs →
        c = roundMag num den ∨ roundMag num den % 2 = 0) := by
  obtain ⟨sh, hsh, hm, hr⟩ := roundMag_binade num hd
  have hr : roundMag num den = sh * 2 ^ 23 + rneDiv num (den * 2 ^ sh) := by omega
  have hmag : patMag (roundMag num den) = rneDiv num (den * 2 ^ sh) * 2 ^ sh := by
    rw [hr]; exact patMag_rneDiv hd hsh hm
  have hunit : ∀ k, k * 2 ^ sh * den = k * (den * 2 ^ sh) := fun k => by ring
  have nearest := rneDiv_nearest (num := num) (den := den * 2 ^ sh) (by positivity)
  by_cases hc : sh = 0 ∨ (sh + 1) * 2 ^ 23 ≤ c
  · obtain ⟨k, hk⟩ := unit_dvd_patMag hc
    obtain ⟨hle, htie⟩ := nearest k
    rw [hmag, hk, mul_comm (2 ^ sh) k, hunit, hunit]
    refine ⟨hle, fun h => (htie h).imp (fun hkr => ?_) (by omega)⟩
    apply patMag_strictMono.injective
    rw [hmag, hk, hkr, mul_comm]
  · obtain ⟨hle, -⟩ := nearest (2 ^ 23)
    have hlow : patMag c * den < 2 ^ 23 * (den * 2 ^ sh) := by
      rw [← hunit, ← patMag_add (by norm_num) (Or.inr le_rfl)]
      exact Nat.mul_lt_mul_of_pos_right (patMag_strictMono (by omega)) hd
    rw [hmag, hunit]
    omega

/-- A significand below 2^24 in units of a power of two within the finite range rounds to itself. -/
theorem roundMag_exact {k e : Nat} (hk : k < 2 ^ 24) (he : e ≤ 253) :
    roundMag (k * 2 ^ e) 1 < infBits ∧ patMag (roundMag (k * 2 ^ e) 1) = k * 2 ^ e := by
  have hpow : 2 ^ e ≤ 2 ^ 253 := Nat.pow_le_pow_right (by norm_num) he
  have hfin : roundMag (k * 2 ^ e) 1 < infBits := by
    refine (roundMag_lt_infBits_iff one_pos).mpr ?_
    have : k * 2 ^ e ≤ (2 ^ 24 - 1) * 2 ^ 253 := Nat.mul_le_mul (by omega) hpow
    omega
  obtain ⟨sh, hsh, hm, hr⟩ := roundMag_binade (k * 2 ^ e) one_pos
  have hle : sh ≤ e := by
    obtain rfl | hsh := hsh
    · exact Nat.zero_le e
    · have hlt : 2 ^ (23 + sh) < 2 ^ (24 + e) := by
        rw [pow_add, pow_add]
        have := Nat.mul_lt_mul_of_pos_right hk (Nat.two_pow_pos e)
        omega
      have := (Nat.pow_lt_pow_iff_right (by norm_num)).mp hlt
      omega
  have hunits : k * 2 ^ e = k * 2 ^ (e - sh) * (1 * 2 ^ sh) := by
    rw [one_mul, mul_assoc, ← pow_add, Nat.sub_add_cancel hle]
  have hr : roundMag (k * 2 ^ e) 1 = sh * 2 ^ 23 + rneDiv (k * 2 ^ e) (1 * 2 ^ sh) := by omega
  refine ⟨hfin, ?_⟩
  rw [hr, patMag_rneDiv one_pos hsh hm, hunits, rneDiv_mul_self (by positivity), one_mul]

/-! ## The sign -/

/-- `r` is what rounding the exact value `t / den` (in units of 2^-149) to nearest with ties to even gives: finite below
the limit, and then no finite value is nearer, and one as near is equal or leaves `r` even. -/
def RoundsTo (r : F32) (t : Int) (den : Nat) : Prop :=
  (f32IsFinite r = true ↔ t.natAbs < (2 ^ 25 - 1) * 2 ^ 252 * den)
    ∧ (f32IsFinite r = true → ∀ c : F32, f32IsFinite c = true →
      (f32Val r * den - t).natAbs ≤ (f32Val c * den - t).natAbs
      ∧ ((f32Val r * den - t).natAbs = (f32Val c * den - t).natAbs → f32Val c = f32Val r ∨ r.toNat % 2 = 0))

theorem f32Pack_toNat {p : Nat} (sign : Bool) (h : p ≤ infBits) :
    (f32Pack sign p).toNat = p + if sign then 2 ^ 31 else 0 := by
  simp only [infBits] at h
  cases sign <;> simp [f32Pack] <;> omega

theorem f32Pack_toNat_mod {p : Nat} (sign : Bool) (h : p ≤ infBits) : (f32Pack sign p).toNat % 2 ^ 31 = p := by
  rw [f32Pack_toNat sign h]
  simp only [infBits] at h
  split <;> omega

/-- The sign does not change whether a pattern is even. -/
theorem f32Pack_toNat_mod_two {p : Nat} (sign : Bool) (h : p ≤ infBits) : (f32Pack sign p).toNat % 2 = p % 2 := by
  have := f32Pack_toNat_mod sign h
  omega

theorem f32Mag_f32Pack {p : Nat} (sign : Bool) (h : p ≤ infBits) : f32Mag (f32Pack sign p) = patMag p := by
  rw [f32Mag_eq_patMag, f32Pack_toNat_mod sign h]

theorem f32Sign_f32Pack {p : Nat} (sign : Bool) (h : p ≤ infBits) : f32Sign (f32Pack sign p) = sign := by
  rw [f32Sign_eq, f32Pack_toNat sign h]
  simp only [infBits] at h
  cases sign
  · simp; omega
  · simp

theorem f32IsFinite_f32Pack {p : Nat} (sign : Bool) (h : p ≤ infBits) :
    f32IsFinite (f32Pack sign p) = true ↔ p < infBits := by
  rw [f32IsFinite_iff, f32Pack_toNat_mod sign h]

/-- A value times a whole number is the product of the magnitudes under the sign. -/
theorem f32Val_mul (a : F32) (den : Nat) :
    f32Val a * den = if f32Sign a then -((f32Mag a * den : Nat) : Int) else ((f32Mag a * den : Nat) : Int) := by
  cases h : f32Sign a <;> simp [f32Val, h]

/-- The integer is 0 or has this sign. -/
def HasSign (sign : Bool) (t : Int) : Prop := if sign then t ≤ 0 else 0 ≤ t

theorem hasSign_false {t : Int} : HasSign false t ↔ 0 ≤ t := Iff.rfl

theorem hasSign_zero (sign : Bool) : HasSign sign 0 := by cases sign <;> exact le_rfl

theorem hasSign_f32Val (a : F32) : HasSign (f32Sign a) (f32Val a) := by
  cases h : f32Sign a <;> simp [HasSign, f32Val, h]

theorem HasSign.mul {s s' : Bool} {t t' : Int} (h : HasSign s t) (h' : HasSign s' t') :
    HasSign (s != s') (t * t') := by
  cases s <;> cases s'
  · exact mul_nonneg h h'
  · exact mul_nonpos_of_nonneg_of_nonpos h h'
  · exact mul_nonpos_of_nonpos_of_nonneg h h'
  · exact mul_nonneg_of_nonpos_of_nonpos h h'

theorem HasSign.sign {s : Bool} {t : Int} (h : HasSign s t) : HasSign s t.sign := by
  cases s
  · exact Int.sign_nonneg_iff.mpr h
  · exact Int.sign_nonpos_iff.mpr h

/-- A magnitude `x` nearest to that of `t` is nearest under the sign of `t`: a `w` of the other sign is as near only
where both are 0, since `x` is no farther than 0 is. -/
theorem signed_nearest {x y : Nat} {t u w : Int} {isEven : Prop}
    (hu : (u = x ∧ 0 ≤ t) ∨ (u = -x ∧ t ≤ 0)) (hw : w = y ∨ w = -y)
    (zero : ((x : Int) - t.natAbs).natAbs ≤ t.natAbs)
    (near : ((x : Int) - t.natAbs).natAbs ≤ ((y : Int) - t.natAbs).natAbs)
    (tie : ((x : Int) - t.natAbs).natAbs = ((y : Int) - t.natAbs).natAbs → y = x ∨ isEven) :
    (u - t).natAbs ≤ (w - t).natAbs ∧ ((u - t).natAbs = (w - t).natAbs → w = u ∨ isEven) := by
  rcases hu with ⟨rfl, ht⟩ | ⟨rfl, ht⟩ <;> rcases hw with rfl | rfl <;>
    refine ⟨by omega, fun h => (tie (by omega)).imp_left fun h => by omega⟩

/-- A rounded magnitude under the sign of the exact value is the rounded value. -/
theorem f32Pack_roundsTo {t : Int} {den : Nat} (hd : 0 < den) {sign : Bool} (hsign : HasSign sign t) :
    RoundsTo (f32Pack sign (roundMag t.natAbs den)) t den := by
  have hle := roundMag_le_inf t.natAbs den
  refine ⟨by rw [f32IsFinite_f32Pack sign hle, roundMag_lt_infBits_iff hd], fun hfin c _ => ?_⟩
  have nearest := roundMag_nearest hd ((f32IsFinite_f32Pack sign hle).mp hfin)
  obtain ⟨near, tie⟩ := nearest (c.toNat % 2 ^ 31)
  rw [← f32Mag_eq_patMag] at near tie
  have hu := f32Val_mul (f32Pack sign (roundMag t.natAbs den)) den
  rw [f32Sign_f32Pack sign hle, f32Mag_f32Pack sign hle] at hu
  have hw := f32Val_mul c den
  rw [← mul_left_inj' (Int.natCast_ne_zero.mpr hd.ne')]
  refine signed_nearest (x := patMag (roundMag t.natAbs den) * den) (y := f32Mag c * den)
    ?_ ?_ ?_ near (fun h => (tie h).imp ?_ ?_)
  · cases sign
    · exact Or.inl ⟨by simpa only [Bool.false_eq_true, if_false] using hu, hsign⟩
    · exact Or.inr ⟨by simpa only [if_true] using hu, hsign⟩
  · rw [hw]; split <;> simp
  · have zero := (nearest 0).1
    rw [show patMag 0 = 0 from rfl] at zero
    simpa only [zero_mul, Nat.cast_zero, zero_sub, Int.natAbs_neg, Int.natAbs_natCast] using zero
  · intro h; rw [f32Mag_eq_patMag, h]
  · exact (f32Pack_toNat_mod_two sign hle).trans

end Sys2Proof.Machine
end

section
/-! SUPPORT. The binary32 operations on finite values are their exact results rounded, and SAMPLE. -/

namespace Sys2Proof.Machine

/-! ## The operations on finite values -/

theorem not_special_of_finite {a : F32} (h : f32IsFinite a = true) : f32IsNaN a = false ∧ f32IsInf a = false := by
  have hexp : f32Exp a ≠ 255 := by simpa [f32IsFinite] using h
  simp [f32IsNaN, f32IsInf, hexp]

theorem f32Val_natAbs (a : F32) : (f32Val a).natAbs = f32Mag a := by
  cases h : f32Sign a <;> simp [f32Val, h]

/-- A sum of finite values is its exact value rounded; an exact 0 is positive unless both operands are negative. -/
theorem f32add_roundsTo {a b : F32} (ha : f32IsFinite a = true) (hb : f32IsFinite b = true) :
    RoundsTo (f32add a b) (f32Val a + f32Val b) 1 := by
  obtain ⟨han, hai⟩ := not_special_of_finite ha
  obtain ⟨hbn, hbi⟩ := not_special_of_finite hb
  simp only [f32add, han, hai, hbn, hbi, Bool.or_self, Bool.false_eq_true, if_false]
  split
  next hzero =>
    rw [hzero]
    exact f32Pack_roundsTo (t := 0) one_pos (hasSign_zero _)
  next hne =>
    refine f32Pack_roundsTo one_pos ?_
    rcases lt_or_gt_of_ne hne with h | h
    · rw [decide_eq_true h]; exact h.le
    · rw [decide_eq_false h.not_gt]; exact h.le

theorem f32mul_roundsTo {a b : F32} (ha : f32IsFinite a = true) (hb : f32IsFinite b = true) :
    RoundsTo (f32mul a b) (f32Val a * f32Val b) (2 ^ 149) := by
  obtain ⟨han, hai⟩ := not_special_of_finite ha
  obtain ⟨hbn, hbi⟩ := not_special_of_finite hb
  simp only [f32mul, han, hai, hbn, hbi, Bool.or_self, Bool.false_eq_true, if_false]
  rw [← f32Val_natAbs a, ← f32Val_natAbs b, ← Int.natAbs_mul]
  exact f32Pack_roundsTo (by positivity) ((hasSign_f32Val a).mul (hasSign_f32Val b))

/-- A quotient of finite values by one that is not 0 is the exact quotient rounded, the divisor's sign taken to the
dividend. -/
theorem f32div_roundsTo {a b : F32} (ha : f32IsFinite a = true) (hb : f32IsFinite b = true) (hne : f32Val b ≠ 0) :
    RoundsTo (f32div a b) (f32Val a * 2 ^ 149 * (f32Val b).sign) (f32Mag b) := by
  obtain ⟨han, hai⟩ := not_special_of_finite ha
  obtain ⟨hbn, hbi⟩ := not_special_of_finite hb
  have hmag : f32Mag b ≠ 0 := by rwa [← f32Val_natAbs, Int.natAbs_ne_zero]
  simp only [f32div, han, hai, hbn, hbi, hmag, Bool.or_self, Bool.false_eq_true, if_false]
  have habs : f32Mag a * 2 ^ 149 = (f32Val a * 2 ^ 149 * (f32Val b).sign).natAbs := by
    rw [Int.natAbs_mul, Int.natAbs_mul, Int.natAbs_sign_of_ne_zero hne, f32Val_natAbs, mul_one]; rfl
  rw [habs]
  have hunits : HasSign (f32Sign a) (f32Val a * 2 ^ 149) := by
    simpa using (hasSign_f32Val a).mul (hasSign_false.mpr (by positivity : (0 : Int) ≤ 2 ^ 149))
  exact f32Pack_roundsTo (Nat.pos_of_ne_zero hmag) (hunits.mul (hasSign_f32Val b).sign)

/-- Distances after multiplication by the divisor are those after multiplication by its magnitude, where the dividend
carries the divisor's sign. -/
theorem natAbs_sub_mul_sign (x d : Int) {b : F32} (hne : f32Val b ≠ 0) :
    (x * f32Val b - d).natAbs = (x * f32Mag b - d * (f32Val b).sign).natAbs := by
  rw [← f32Val_natAbs b]
  rcases lt_or_gt_of_ne hne with h | h
  · rw [Int.sign_eq_neg_one_of_neg h, Int.ofNat_natAbs_of_nonpos h.le, ← Int.natAbs_neg]
    congr 1
    ring
  · rw [Int.sign_eq_one_of_pos h, Int.natAbs_of_nonneg h.le, mul_one]

/-- `i2f` of a whole number up to 2^24 is that number (00_scope.md R10). -/
theorem i2f_exact {n : Nat} (h : n ≤ 2 ^ 24) : f32IsFinite (i2f n) = true ∧ f32Val (i2f n) = n * 2 ^ 149 := by
  have hround : roundMag (n * 2 ^ 149) 1 < infBits ∧ patMag (roundMag (n * 2 ^ 149) 1) = n * 2 ^ 149 := by
    obtain hlt | rfl := Nat.lt_or_eq_of_le h
    · exact roundMag_exact hlt (by norm_num)
    · exact roundMag_exact (k := 1) (e := 173) (by norm_num) (by norm_num)
  obtain ⟨hfin, hmag⟩ := hround
  refine ⟨(f32IsFinite_f32Pack false hfin.le).mpr hfin, ?_⟩
  rw [i2f, f32Val, f32Sign_f32Pack false hfin.le, f32Mag_f32Pack false hfin.le, hmag]
  simp

theorem i2f_codeMax : i2f codeMax = 0x447FC000 := by decide +kernel

/-- SAMPLE where MAIN may take steps and the code is in range is its one update. -/
theorem execSample_of_free {s : State} (hfree : mainFree s = true) (hcode : s.ports.adcCode ≤ codeMax) :
    exec .sample s = .next (sampleOp s) := by
  show execSample s = _
  rw [execSample, whenFree_of_free hfree, withConversion_of_le hcode]

end Sys2Proof.Machine
end

section
/-! SUPPORT. A step is refused for its configuration only by the checks before it. -/

namespace Sys2Proof.Machine

/-! ## Which operations refuse -/

theorem andThen_ne_refused {r : Result} {f : State → Result} {e : Refusal} (hr : r ≠ .refused e)
    (hf : ∀ s, f s ≠ .refused e) : andThen r f ≠ .refused e := by
  cases r <;> simp_all

theorem whenFree_ne_refused {s : State} {r : Result} {e : Refusal} (hr : r ≠ .refused e) :
    whenFree s r ≠ .refused e := by
  cases h : mainFree s
  · simp [whenFree_of_not_free h]
  · rwa [whenFree_of_free h]

theorem withConversion_ne_refused {s : State} {r : Result} {e : Refusal} (hr : r ≠ .refused e) :
    withConversion s r ≠ .refused e := by
  rw [withConversion]; split
  · simp
  · exact hr

theorem notchOp_ne_refused (s : State) (e : Refusal) : notchOp s ≠ .refused e := by
  rw [notchOp]; split <;> simp

theorem firOp_ne_refused (s : State) (e : Refusal) : firOp s ≠ .refused e := by
  rw [firOp]; split <;> simp

theorem tickOp_ne_refused (s : State) (e : Refusal) : tickOp s ≠ .refused e :=
  andThen_ne_refused (notchOp_ne_refused _ e) fun t =>
    andThen_ne_refused (firOp_ne_refused t e) fun _ => by simp

theorem pollOp_ne_refused (s : State) (e : Refusal) : pollOp s ≠ .refused e := by
  refine andThen_ne_refused ?_ fun _ => by simp
  rw [pollSample]; split
  · exact andThen_ne_refused (tickOp_ne_refused _ e) fun _ => by simp
  · simp

theorem execPoll_ne_refused (s : State) (e : Refusal) : execPoll s ≠ .refused e := by
  rw [execPoll]; split
  · simp
  · split
    · exact withConversion_ne_refused (pollOp_ne_refused s e)
    · exact pollOp_ne_refused s e

/-- Every operation of the label table has its meaning: `exec` refuses none, in any state. -/
theorem exec_ne_refused (i : Instr) (s : State) (e : Refusal) : exec i s ≠ .refused e := by
  have gated : ∀ t : State, whenFree s (.next t) ≠ .refused e := fun t => whenFree_ne_refused (by simp)
  cases i with
  | reset | time => simp [exec, execReset, execTime]
  | start => simp only [exec, execStart]; split <;> simp
  | trig => simp only [exec, execTrig]; split <;> simp
  | emit =>
    simp only [exec, execEmit]; split
    · simp
    · split <;> simp
  | poll => exact execPoll_ne_refused s e
  | tick => exact whenFree_ne_refused (withConversion_ne_refused (tickOp_ne_refused s e))
  | sample => exact whenFree_ne_refused (withConversion_ne_refused (by simp))
  | notch => exact whenFree_ne_refused (notchOp_ne_refused s e)
  | fir => exact whenFree_ne_refused (firOp_ne_refused s e)
  | xmit => exact whenFree_ne_refused (by split <;> simp)
  | convert | ewma | hpush | value | crc8 | packBin | packTxt | diag => exact gated _

/-- The answer is not the refusal of an ill-formed configuration. -/
def NoConfigRefusal (r : Result) : Prop := ∀ e, r ≠ .refused (.illFormedConfig e)

theorem noConfigRefusal_exec (i : Instr) (s : State) : NoConfigRefusal (exec i s) := fun _ => exec_ne_refused i s _

theorem noConfigRefusal_atTime {t : Nat} {s : State} {f : State → Result} (hf : ∀ u, NoConfigRefusal (f u)) :
    NoConfigRefusal (atTime t s f) := by
  rw [atTime]; split
  · intro e; simp
  · exact hf _

theorem noConfigRefusal_pollAt (s : State) (code : Option Nat) : NoConfigRefusal (pollAt s code) := by
  unfold pollAt; split
  · intro e; simp
  · split
    · split
      · intro e; simp
      · exact noConfigRefusal_exec .poll s
    · exact noConfigRefusal_exec .poll _

theorem noConfigRefusal_applyLine (l : Line) (s : State) : NoConfigRefusal (applyLine l s) := by
  cases l with
  | reset => exact noConfigRefusal_exec .reset s
  | start t => exact noConfigRefusal_atTime fun u => noConfigRefusal_exec .start _
  | poll t code => exact noConfigRefusal_atTime fun u => noConfigRefusal_pollAt u code
  | pollRange t1 t2 code =>
    simp only [applyLine]; split
    · intro e; simp
    · split
      · exact noConfigRefusal_atTime fun u => noConfigRefusal_pollAt u code
      · exact noConfigRefusal_atTime fun u => noConfigRefusal_pollAt _ code
  | trig t => exact noConfigRefusal_atTime fun u => noConfigRefusal_exec .trig _
  | emit n =>
    cases n with
    | zero => intro e; simp [applyLine]
    | succ n =>
      simp only [applyLine]; split
      · intro e; simp
      · exact noConfigRefusal_exec .emit _

theorem noConfigRefusal_applyOp (i : Instr) (s : State) : NoConfigRefusal (applyOp i s) := by
  have sub : NoConfigRefusal
      (if s.part = some i then exec i { s with part := none } else .refused .outsideComposite) := by
    split
    · exact noConfigRefusal_exec i _
    · intro e; simp
  rw [applyOp]; split
  · exact noConfigRefusal_exec i s
  · exact sub
  · exact sub

theorem noConfigRefusal_refusalOf (e : DecodeError) : NoConfigRefusal (.refused (refusalOf e)) := by
  intro e'; cases e <;> simp [refusalOf]

theorem noConfigRefusal_applyInput (x : Input) (s : State) : NoConfigRefusal (applyInput x s) := by
  cases x with
  | op label =>
    simp only [applyInput]; split
    · exact noConfigRefusal_applyOp _ s
    · exact noConfigRefusal_refusalOf _
  | word w =>
    simp only [applyInput]; split
    · exact noConfigRefusal_applyLine _ s
    · exact noConfigRefusal_refusalOf _
  | line l => exact noConfigRefusal_applyLine l s
  | level p => intro e; simp [applyInput]

theorem noConfigRefusal_runNext (s : State) : NoConfigRefusal (runNext s) := by
  rw [runNext]; split
  · exact noConfigRefusal_exec _ s
  · exact noConfigRefusal_applyInput _ _

/-- A step is refused for its configuration exactly when a check fails: nothing after the checks refuses for it. -/
theorem step_configRefused_iff (s : State) :
    (∃ e, step s = .refused (.illFormedConfig e)) ↔ configError s.cfg ≠ none := by
  rw [step]
  cases h : configError s.cfg with
  | some e => simp
  | none => simpa using fun e => noConfigRefusal_runNext s e

/-! ## The checks of a configuration -/

theorem periodOk_iff (p : Nat) : periodOk p = true ↔ 1 ≤ p ∧ p ≤ 2 ^ 32 - 1 := by
  simp [periodOk]

/-- The bound on the pattern is the bound 2^100 on the magnitude, since magnitudes rise with their patterns. -/
theorem weightBounded_iff (w : F32) : weightBounded w = true ↔ f32Mag w ≤ 2 ^ 249 := by
  have hbound : patMag 0x71800000 = 2 ^ 249 := by decide +kernel
  rw [weightBounded, decide_eq_true_iff, f32Mag_eq_patMag, ← hbound, patMag_strictMono.le_iff_le]

theorem f32Val_pos_iff (a : F32) : 0 < f32Val a ↔ f32Sign a = false ∧ f32Mag a ≠ 0 := by
  cases h : f32Sign a <;> simp [f32Val, h, Nat.pos_iff_ne_zero]

/-- One check after another: the first that fails is named. -/
theorem check_eq_none_iff {p : Prop} {_ : Decidable p} {e : ConfigError} {later : Option ConfigError} :
    (if p then some e else later) = none ↔ ¬ p ∧ later = none := by
  split <;> simp_all

/-- A configuration is well formed exactly when all checks of 00_scope.md R7, and the one of the `EXPF` table, hold. -/
theorem configError_eq_none_iff (c : Config) :
    configError c = none ↔
      1 ≤ c.firW.length
      ∧ (∀ w ∈ c.firW, f32IsFinite w = true)
      ∧ (f32IsFinite c.vsupply = true ∧ 0 < f32Val c.vsupply)
      ∧ c.stationId ≤ 15
      ∧ (1 ≤ c.samplePeriod ∧ c.samplePeriod ≤ 2 ^ 32 - 1)
      ∧ (1 ≤ c.txPeriod ∧ c.txPeriod ≤ 2 ^ 32 - 1)
      ∧ (11 ≤ c.txqDepth ∧ frameLen c.frameMode ≤ c.txqDepth)
      ∧ (c.firW.length ≤ 65536 ∧ ∀ w ∈ c.firW, f32Mag w ≤ 2 ^ 249)
      ∧ expFnOk c.expf = true := by
  simp only [← weightBounded_iff, ← periodOk_iff, f32Val_pos_iff]
  unfold configError
  simp only [check_eq_none_iff]
  simp [Config.taps, and_assoc, Nat.one_le_iff_ne_zero]

end Sys2Proof.Machine
end

section
/-! SUPPORT. The statements about the scope (00_scope.md). -/

namespace Sys2Proof.Proofs

open Sys2Proof.Machine Sys2Proof.Safety

/-- Settles O37: the exact sum is an integer in units of 2^-149, rounded by `roundMag` under its own sign. -/
theorem additionRoundsToNearestEven : Obligations.AdditionRoundsToNearestEven := by
  unfold Obligations.AdditionRoundsToNearestEven
  intro a b ha hb
  simpa only [RoundsTo, Nat.cast_one, mul_one] using f32add_roundsTo ha hb

/-- Settles O38: the exact product is an integer in units of 2^-298, rounded by `roundMag` under its own sign. -/
theorem multiplicationRoundsToNearestEven : Obligations.MultiplicationRoundsToNearestEven := by
  unfold Obligations.MultiplicationRoundsToNearestEven
  intro a b ha hb
  simpa only [RoundsTo, Nat.cast_pow, Nat.cast_ofNat] using f32mul_roundsTo ha hb

/-- Settles O39: the dividend under the divisor's sign over the divisor's magnitude, rounded by `roundMag`. -/
theorem divisionRoundsToNearestEven : Obligations.DivisionRoundsToNearestEven := by
  unfold Obligations.DivisionRoundsToNearestEven
  intro a b ha hb hne
  obtain ⟨hfin, hnear⟩ := f32div_roundsTo ha hb hne
  simp only [natAbs_sub_mul_sign _ _ hne, f32Val_natAbs]
  rw [Int.natAbs_mul _ (f32Val b).sign, Int.natAbs_sign_of_ne_zero hne, mul_one] at hfin
  exact ⟨hfin, hnear⟩

/-- Settles O22: a whole number up to 2^24 is a significand below 2^24 at some unit, which rounds to itself; SAMPLE is
its one update of the state. -/
theorem sampleScalesTheCode : Obligations.SampleScalesTheCode := by
  unfold Obligations.SampleScalesTheCode
  refine ⟨fun n => i2f_exact, fun s hruns hcode => ?_⟩
  rw [execSample_of_free (mainFree_iff.mpr hruns) hcode, sampleOp_eq, sampleVoltage, i2f_codeMax]

/-- Settles O11: the checks run before anything else, and nothing after them answers with their refusal. -/
theorem illFormedConfigurationsNeverRun : Obligations.IllFormedConfigurationsNeverRun := by
  unfold Obligations.IllFormedConfigurationsNeverRun
  intro s
  rw [step_configRefused_iff, ne_eq, configError_eq_none_iff]

end Sys2Proof.Proofs
end

section
/-! SUPPORT. What an operation and a step of the machine can do to the control part of the state, said once
(42_scheduler_trigger.md, 60_exceptions.md). -/

namespace Sys2Proof.Machine

open Relation

/-! ## What an operation does to the control part -/

/-- `t` differs from `s` only in what the tick datapath writes, in local values, in the mark of a stuck MAIN and in a
longer observation. -/
structure SameControl (s t : State) : Prop where
  cfg : t.cfg = s.cfg
  fsm : t.fsm = s.fsm
  lastTransmitTime : t.lastTransmitTime = s.lastTransmitTime
  pendingSend : t.pendingSend = s.pendingSend
  txq : t.txq = s.txq
  edge : t.edge = s.edge
  holding : t.holding = s.holding
  time : t.time = s.time
  ports : t.ports = s.ports
  part : t.part = s.part
  inputs : t.inputs = s.inputs
  events : s.events <+: t.events

theorem SameControl.refl (s : State) : SameControl s s := by constructor <;> simp

theorem SameControl.transmitDue_eq {s t : State} (h : SameControl s t) (now : Millis) :
    transmitDue t now = transmitDue s now := by
  simp only [transmitDue, h.cfg, h.pendingSend, h.lastTransmitTime]

theorem SameControl.txqRoom_eq {s t : State} (h : SameControl s t) (n : Nat) : txqRoom t n = txqRoom s n := by
  simp only [txqRoom, h.cfg, h.txq]

theorem SameControl.held_eq {s t : State} (h : SameControl s t) : held t = held s := by
  simp only [held, h.transmitDue_eq, h.txqRoom_eq, nowOf, h.cfg, h.fsm, h.holding, h.time]

theorem stickMain_sameControl (s : State) : SameControl s (stickMain s) := by constructor <;> simp

/-- `t` is `s` after the transmit part of a POLL: one frame more in the queue, the request cleared, and beside these
only the transmit time, tick registers, local values and the observation changed. -/
structure Transmitted (s t : State) : Prop where
  room : txqRoom s (frameLen s.cfg.frameMode) = true
  txq : ∃ frame : List Byte, frame.length = frameLen s.cfg.frameMode ∧ t.txq = s.txq ++ frame
  pendingSend : t.pendingSend = false
  cfg : t.cfg = s.cfg
  fsm : t.fsm = s.fsm
  edge : t.edge = s.edge
  holding : t.holding = s.holding
  stuck : t.stuck = s.stuck
  time : t.time = s.time
  ports : t.ports = s.ports
  part : t.part = s.part
  inputs : t.inputs = s.inputs
  events : s.events <+: t.events

theorem Transmitted.not_held {s t : State} (h : Transmitted s t) : held s = false := by
  simp [held, h.room]

theorem xmitOp_transmitted {s : State} (h : txqRoom s (frameLen s.cfg.frameMode) = true) :
    Transmitted s (xmitOp s) := by
  rw [xmitOp_eq]
  exact
    { room := h
      txq := ⟨_, frameOf_length s, rfl⟩
      events := List.prefix_append _ _
      pendingSend := rfl
      cfg := rfl
      fsm := rfl
      edge := rfl
      holding := rfl
      stuck := rfl
      time := rfl
      ports := rfl
      part := rfl
      inputs := rfl }

theorem Transmitted.clearNow {s t : State} (h : Transmitted s t) : Transmitted s (clearNow t) :=
  { h with }

/-- A transmit after a part that leaves the control part alone. -/
theorem SameControl.transmitted {s u t : State} (h : SameControl s u) (hstuck : u.stuck = s.stuck)
    (ht : Transmitted u t) : Transmitted s t where
  room := by simpa only [h.txqRoom_eq, h.cfg] using ht.room
  txq := by simpa only [h.cfg, h.txq] using ht.txq
  pendingSend := ht.pendingSend
  cfg := ht.cfg.trans h.cfg
  fsm := ht.fsm.trans h.fsm
  edge := ht.edge.trans h.edge
  holding := ht.holding.trans h.holding
  stuck := ht.stuck.trans hstuck
  time := ht.time.trans h.time
  ports := ht.ports.trans h.ports
  part := ht.part.trans h.part
  inputs := ht.inputs.trans h.inputs
  events := h.events.trans ht.events

/-- What the operation `i` can make of the control part of `s`. Waiting is a `quiet` outcome. -/
inductive ControlStep (s : State) : Instr → State → Prop
  | reset : ControlStep s .reset (resetCore s)
  | start (h : startEnabled s = true) :
      ControlStep s .start { s with fsm := .run, lastSampleTime := nowOf s, lastTransmitTime := nowOf s }
  | trig (h : trigEnabled s = true) : ControlStep s .trig (takeTrigger s)
  | emit {b : Byte} {rest : List Byte} (hq : s.txq = b :: rest) (h : emitEnabled s = true) :
      ControlStep s .emit (releaseHold (emitEvent { s with txq := rest } (.wire b)))
  | time : ControlStep s .time (advanceTo (s.time + (s.ports.advance + 1)) s)
  | quiet {i : Instr} {t : State} (h : SameControl s t)
      (hstuck : t.stuck = s.stuck ∨ i = .poll ∨ i = .tick ∨ i = .sample) : ControlStep s i t
  | transmit {i : Instr} {t : State} (h : Transmitted s t) : ControlStep s i t

theorem ControlStep.wait (s : State) (i : Instr) : ControlStep s i s := .quiet (.refl s) (.inl rfl)

/-- A gated part that leaves the control part alone. -/
theorem ControlStep.of_whenFree {s t : State} {i : Instr} {r : Result} (h : whenFree s r = .next t)
    (hr : r = .next t → ControlStep s i t) : ControlStep s i t := by
  obtain ⟨-, rfl⟩ | ⟨-, h⟩ := whenFree_eq_next.mp h
  · exact .wait _ i
  · exact hr h

/-- A gated part with one outcome, which leaves the control part alone. -/
theorem ControlStep.of_whenFree_next {s t u : State} {i : Instr} (h : whenFree s (.next u) = .next t)
    (hu : SameControl s u) (hstuck : u.stuck = s.stuck) : ControlStep s i t :=
  .of_whenFree h fun h => by
    cases h
    exact .quiet hu (.inl hstuck)

/-- A part with a conversion that leaves the control part alone, or MAIN stuck. -/
theorem ControlStep.of_withConversion {s t : State} {i : Instr} {r : Result} (h : withConversion s r = .next t)
    (hi : i = .poll ∨ i = .tick ∨ i = .sample) (hr : r = .next t → ControlStep s i t) : ControlStep s i t := by
  obtain ⟨-, rfl⟩ | ⟨-, h⟩ := withConversion_eq_next.mp h
  · exact .quiet (stickMain_sameControl s) (.inr hi)
  · exact hr h

theorem tickOp_sameControl {s t : State} (h : tickOp s = .next t) : SameControl s t ∧ t.stuck = s.stuck := by
  obtain ⟨out, rfl⟩ := tickOp_next h
  exact ⟨by constructor <;> simp, rfl⟩

theorem pollSample_sameControl {now : Millis} {s t : State} (h : pollSample now s = .next t) :
    SameControl s t ∧ t.stuck = s.stuck := by
  obtain ⟨-, rfl⟩ | ⟨-, u, hu, rfl⟩ := pollSample_next h
  · exact ⟨.refl t, rfl⟩
  · obtain ⟨hs, hstuck⟩ := tickOp_sameControl hu
    exact ⟨{ hs with }, hstuck⟩

/-- A POLL that is enabled and transmits has room for the frame: without room it would be held. -/
theorem txqRoom_of_pollEnabled {s : State} (h : pollEnabled s = true) (hd : transmitDue s (nowOf s) = true) :
    txqRoom s (frameLen s.cfg.frameMode) = true := by
  obtain ⟨-, hrun, hheld⟩ := pollEnabled_iff.mp h
  simpa [held, hrun, hd] using hheld

theorem execPoll_controlStep {s t : State} (h : execPoll s = .next t) : ControlStep s .poll t := by
  obtain ⟨-, rfl⟩ | ⟨-, -, -, rfl⟩ | ⟨he, -, u, hu, rfl⟩ := execPoll_next h
  · exact .wait _ _
  · exact .quiet (stickMain_sameControl s) (.inr (.inl rfl))
  · obtain ⟨hu, hstuck⟩ := pollSample_sameControl hu
    have hu : SameControl s u := { hu with }
    rw [pollTransmit, hu.transmitDue_eq]
    split
    · next hd =>
      have hroom : txqRoom u (frameLen u.cfg.frameMode) = true := by
        simpa only [hu.txqRoom_eq, hu.cfg] using txqRoom_of_pollEnabled he hd
      exact .transmit (hu.transmitted hstuck (xmitOp_transmitted hroom).clearNow)
    · exact .quiet { hu with } (.inl hstuck)

/-- Whenever an operation answers a next state, the control part is as `ControlStep` says. -/
theorem exec_controlStep {i : Instr} {s t : State} (h : exec i s = .next t) : ControlStep s i t := by
  cases i with
  | reset => cases h; exact .reset
  | time => cases h; exact .time
  | start =>
    simp only [exec, execStart] at h
    split at h <;> cases h
    · exact .start ‹_›
    · exact .wait _ _
  | trig =>
    simp only [exec, execTrig] at h
    split at h <;> cases h
    · exact .trig ‹_›
    · exact .wait _ _
  | emit =>
    obtain rfl | ⟨b, rest, hq, he, rfl⟩ := execEmit_next h
    · exact .wait _ _
    · exact .emit hq he
  | poll => exact execPoll_controlStep h
  | tick =>
    refine .of_whenFree h fun h => .of_withConversion h (by simp) fun h => ?_
    obtain ⟨hs, hstuck⟩ := tickOp_sameControl h
    exact .quiet hs (.inl hstuck)
  | sample =>
    refine .of_whenFree h fun h => .of_withConversion h (by simp) fun h => ?_
    cases h
    exact .quiet (by constructor <;> simp [sampleOp_eq]) (.inl rfl)
  | notch =>
    refine .of_whenFree h fun h => ?_
    obtain ⟨out, rfl⟩ := notchOp_next h
    exact .quiet { SameControl.refl s with } (.inl rfl)
  | fir =>
    refine .of_whenFree h fun h => ?_
    obtain ⟨-, rfl⟩ := firOp_eq_next.mp h
    exact .quiet { SameControl.refl s with } (.inl rfl)
  | xmit =>
    refine .of_whenFree h fun h => ?_
    split at h <;> cases h
    · exact .transmit (xmitOp_transmitted ‹_›)
    · exact .wait _ _
  | diag => exact .of_whenFree_next h { SameControl.refl s with events := List.prefix_append _ _ } rfl
  | convert | ewma | hpush | value | crc8 | packBin | packTxt =>
    exact .of_whenFree_next h { SameControl.refl s with } rfl

theorem ControlStep.ports_eq {s t : State} {i : Instr} (h : ControlStep s i t) : t.ports = s.ports := by
  cases h with
  | reset | start | trig | emit | time => rfl
  | quiet h => exact h.ports
  | transmit h => exact h.ports

/-- While `rst` is 1 an operation waits, is RESET, or lets time pass (70_reset_and_hazards.md R230). -/
theorem exec_of_rst {i : Instr} {s t : State} (h : exec i s = .next t) (hrst : s.ports.rst = true) :
    t = s ∨ t = resetCore s ∨ t = advanceTo (s.time + (s.ports.advance + 1)) s := by
  have hfree : mainFree s = false := by simp [mainFree, hrst]
  have wait : ∀ {r : Result}, whenFree s r = .next t → t = s := fun h => by
    simpa [whenFree_of_not_free hfree, eq_comm] using h
  cases i with
  | reset => cases h; exact .inr (.inl rfl)
  | time => cases h; exact .inr (.inr rfl)
  | start => left; simpa [exec, execStart, startEnabled, hfree, eq_comm] using h
  | poll => left; simpa [exec, execPoll, pollEnabled, hfree, eq_comm] using h
  | trig => left; simpa [exec, execTrig, trigEnabled, hrst, eq_comm] using h
  | emit =>
    obtain rfl | ⟨b, rest, hq, he, rfl⟩ := execEmit_next h
    · exact .inl rfl
    · simp [emitEnabled, hrst] at he
  | tick | sample | convert | ewma | hpush | notch | fir | xmit | value | crc8 | packBin | packTxt | diag =>
    exact .inl (wait h)

/-! ## What a step of the machine does -/

/-- What a step does before the agent's operation: the input leaves the list or a rest of a line comes back, the
composite's point is left, time comes to a line's time, a level other than `rst` changes, `trig_in` rises. -/
inductive EnvMove (s : State) : State → Prop
  | inputs (l : List Input) : EnvMove s { s with inputs := l }
  | part : EnvMove s { s with part := none }
  | advance {t : Nat} (h : s.time ≤ t) : EnvMove s (advanceTo t s)
  | ports {p : Ports} (h : p.rst = s.ports.rst) : EnvMove s { s with ports := p }
  | rise : EnvMove s (risingEdge s)

/-- What a step does last: nothing more, a change of all levels, or one operation. -/
inductive LastMove (s : State) : State → Prop
  | none : LastMove s s
  | levels (p : Ports) : LastMove s (setLevels s p)
  | op {i : Instr} {t : State} (h : exec i s = .next t) : LastMove s t

/-- What a step of the machine can do: environment moves, then one last move. -/
def StepMoves (s t : State) : Prop := ∃ u, ReflTransGen EnvMove s u ∧ LastMove u t

theorem LastMove.stepMoves {s t : State} (h : LastMove s t) : StepMoves s t := ⟨s, .refl, h⟩

theorem EnvMove.stepMoves {s u t : State} (h : EnvMove s u) (ht : StepMoves u t) : StepMoves s t := by
  obtain ⟨v, hv, hlast⟩ := ht
  exact ⟨v, hv.head h, hlast⟩

theorem raiseDiagReady_envMove (s : State) : EnvMove s (raiseDiagReady s) := .ports rfl

theorem raiseTxReady_envMove (s : State) : EnvMove s (raiseTxReady s) := .ports rfl

theorem offerCode_envMove (s : State) (c : Nat) : EnvMove s (offerCode s c) := .ports rfl

theorem thenLine_envMove (s : State) (l : Line) : EnvMove s (thenLine s l) := .inputs _

theorem exec_stepMoves {i : Instr} {s t : State} (h : exec i s = .next t) : StepMoves s t := (LastMove.op h).stepMoves

theorem atTime_stepMoves {t : Nat} {s s' : State} {f : State → Result} (h : atTime t s f = .next s')
    (hf : f (advanceTo t s) = .next s' → StepMoves (advanceTo t s) s') : StepMoves s s' := by
  rw [atTime] at h
  split at h
  · cases h
  · exact (EnvMove.advance (by omega)).stepMoves (hf h)

theorem pollAt_stepMoves {s t : State} {code : Option Nat} (h : pollAt s code = .next t) : StepMoves s t := by
  unfold pollAt at h
  split at h
  · cases h
  · split at h
    · split at h
      · cases h
      · exact exec_stepMoves (i := .poll) h
    · exact (offerCode_envMove s _).stepMoves (exec_stepMoves (i := .poll) h)

theorem applyLine_stepMoves {l : Line} {s t : State} (h : applyLine l s = .next t) : StepMoves s t := by
  cases l with
  | reset => exact exec_stepMoves (i := .reset) h
  | start t1 =>
    exact atTime_stepMoves (f := fun s => execStart (raiseDiagReady s)) h fun h =>
      (raiseDiagReady_envMove _).stepMoves (exec_stepMoves (i := .start) h)
  | poll t1 code => exact atTime_stepMoves (f := fun s => pollAt s code) h pollAt_stepMoves
  | pollRange t1 t2 code =>
    simp only [applyLine] at h
    split at h
    · cases h
      exact LastMove.none.stepMoves
    · split at h
      · exact atTime_stepMoves h pollAt_stepMoves
      · exact atTime_stepMoves h fun h => (thenLine_envMove _ _).stepMoves (pollAt_stepMoves h)
  | trig t1 =>
    exact atTime_stepMoves (f := fun s => execTrig (risingEdge s)) h fun h =>
      EnvMove.rise.stepMoves (exec_stepMoves (i := .trig) h)
  | emit n =>
    cases n with
    | zero => cases h; exact LastMove.none.stepMoves
    | succ n =>
      simp only [applyLine] at h
      split at h
      · cases h
      · have emitted {u : State} (h : execEmit (raiseTxReady u) = .next t) : StepMoves u t :=
          (raiseTxReady_envMove u).stepMoves (exec_stepMoves (i := .emit) h)
        split at h
        · exact emitted h
        · exact (thenLine_envMove s _).stepMoves (emitted h)

theorem applyOp_stepMoves {i : Instr} {s t : State} (h : applyOp i s = .next t) : StepMoves s t := by
  have sub (h : (if s.part = some i then exec i { s with part := none } else .refused .outsideComposite) = .next t) :
      StepMoves s t := by
    split at h
    · exact EnvMove.part.stepMoves (exec_stepMoves h)
    · cases h
  rw [applyOp] at h
  split at h
  · exact exec_stepMoves h
  · exact sub h
  · exact sub h

theorem applyInput_stepMoves {x : Input} {s t : State} (h : applyInput x s = .next t) : StepMoves s t := by
  cases x with
  | op label =>
    simp only [applyInput] at h
    split at h
    · exact applyOp_stepMoves h
    · cases h
  | word w =>
    simp only [applyInput] at h
    split at h
    · exact applyLine_stepMoves h
    · cases h
  | line l => exact applyLine_stepMoves h
  | level p => cases h; exact (LastMove.levels p).stepMoves

/-- Whenever a step answers a next state, the configuration passes the checks, and environment moves and one last
move led there. -/
theorem step_next {s t : State} (h : step s = .next t) : configError s.cfg = none ∧ StepMoves s t := by
  rw [step] at h
  split at h
  · cases h
  · next hcfg =>
    refine ⟨hcfg, ?_⟩
    rw [runNext] at h
    split at h
    · exact exec_stepMoves h
    · exact (EnvMove.inputs _).stepMoves (applyInput_stepMoves h)

/-- What environment moves keep holds before the last move of a step. -/
theorem envMoves_keep {P : State → Prop} (keep : ∀ {s t}, EnvMove s t → P s → P t) {s t : State}
    (h : ReflTransGen EnvMove s t) (hs : P s) : P t := by
  induction h with
  | refl => exact hs
  | tail _ hmove ih => exact keep hmove ih

end Sys2Proof.Machine
end

section
/-! SUPPORT. What every step leaves of the configuration, the time and the observation, and which events change the
mode, the request and the hold (10_state.md R21, R22, R30, R33, R38). -/

namespace Sys2Proof.Machine

open Relation

/-- From `s` to `t` the configuration is the same, time has not gone back, and the observation has only grown. -/
structure Grows (s t : State) : Prop where
  cfg : t.cfg = s.cfg
  time : s.time ≤ t.time
  events : s.events <+: t.events

theorem Grows.refl (s : State) : Grows s s := ⟨rfl, le_rfl, List.prefix_rfl⟩

theorem Grows.trans {s u t : State} (h : Grows s u) (h' : Grows u t) : Grows s t :=
  ⟨h'.cfg.trans h.cfg, h.time.trans h'.time, h.events.trans h'.events⟩

theorem ControlStep.grows {s t : State} {i : Instr} (h : ControlStep s i t) : Grows s t := by
  cases h with
  | reset | start | trig => exact ⟨rfl, le_rfl, List.prefix_rfl⟩
  | emit => exact ⟨rfl, le_rfl, List.prefix_append _ _⟩
  | time => exact ⟨rfl, by simp, List.prefix_rfl⟩
  | quiet h => exact ⟨h.cfg, h.time.ge, h.events⟩
  | transmit h => exact ⟨h.cfg, h.time.ge, h.events⟩

theorem EnvMove.grows {s t : State} (h : EnvMove s t) : Grows s t := by
  cases h with
  | advance h => exact ⟨rfl, h, List.prefix_rfl⟩
  | inputs | part | ports | rise => exact ⟨rfl, le_rfl, List.prefix_rfl⟩

theorem LastMove.grows {s t : State} (h : LastMove s t) : Grows s t := by
  cases h with
  | none => exact .refl s
  | levels p => exact ⟨by simp, by simp, by simp⟩
  | op h => exact (exec_controlStep h).grows

theorem envMoves_grows {s t : State} (h : ReflTransGen EnvMove s t) : Grows s t :=
  envMoves_keep (P := Grows s) (fun h hs => hs.trans h.grows) h (.refl s)

theorem StepMoves.grows {s t : State} (h : StepMoves s t) : Grows s t := by
  obtain ⟨u, hu, hlast⟩ := h
  exact (envMoves_grows hu).trans hlast.grows

/-! ## The mode, the request and the hold -/

/-- Bytes leaving the queue, by EMIT or RESET, are all that lifts the hold. -/
theorem ControlStep.lifts_hold {s t : State} {i : Instr} (h : ControlStep s i t) (hs : held s = true)
    (ht : held t = false) : (i = .emit ∨ i = .reset) ∧ (t.txq.length < s.txq.length ∨ t = resetCore s) := by
  cases h with
  | reset => exact ⟨.inr rfl, .inr rfl⟩
  | start h =>
    obtain ⟨-, hinit, -⟩ := startEnabled_iff.mp h
    obtain ⟨hrun, -⟩ := held_iff.mp hs
    simp [hinit] at hrun
  | trig => simp [held_takeTrigger hs] at ht
  | emit hq => exact ⟨.inl rfl, .inl (by simp [hq])⟩
  | time => simp [held_advanceTo _ hs] at ht
  | quiet h => simp [h.held_eq, hs] at ht
  | transmit h => simp [h.not_held] at hs

/-- A held queue is not empty where a frame fits the depth, so that RESET takes bytes from it. -/
theorem txq_length_pos_of_held {s : State} (hcfg : configError s.cfg = none) (h : held s = true) :
    0 < s.txq.length := by
  obtain ⟨-, -, -, -, -, -, ⟨-, hfits⟩, -, -⟩ := (configError_eq_none_iff s.cfg).mp hcfg
  obtain ⟨-, -, hroom⟩ := held_iff.mp h
  omega

/-- Levels other than `rst`, an edge and the inputs are no part of the hold. -/
theorem EnvMove.keeps_hold {s t : State} (h : EnvMove s t) (hs : held s = true) : held t = true ∧ t.txq = s.txq := by
  cases h with
  | advance => exact ⟨held_advanceTo _ hs, rfl⟩
  | inputs | part | ports | rise => exact ⟨hs, rfl⟩

theorem LastMove.lifts_hold {s t : State} (h : LastMove s t) (hcfg : configError s.cfg = .none) (hs : held s = true)
    (ht : held t = false) : t.txq.length < s.txq.length := by
  have emptied := txq_length_pos_of_held hcfg hs
  cases h with
  | none => simp [hs] at ht
  | levels p =>
    cases hp : p.rst with
    | true => simpa [setLevels_of_rst hp] using emptied
    | false =>
      rw [setLevels_of_not_rst hp] at ht
      exact absurd (hs.symm.trans ht) (by simp)
  | op h =>
    obtain ⟨-, hlt | rfl⟩ := (exec_controlStep h).lifts_hold hs ht
    · exact hlt
    · simpa using emptied

/-- Whenever a step leaves the hold, the queue is shorter. -/
theorem step_lifts_hold {s t : State} (h : step s = .next t) (hs : held s = true) (ht : held t = false) :
    t.txq.length < s.txq.length := by
  obtain ⟨hcfg, u, hu, hlast⟩ := step_next h
  obtain ⟨hheld, hq⟩ : held u = true ∧ u.txq = s.txq :=
    envMoves_keep (P := fun u => held u = true ∧ u.txq = s.txq)
      (fun h ⟨hs, hq⟩ => ⟨(h.keeps_hold hs).1, (h.keeps_hold hs).2.trans hq⟩) hu ⟨hs, rfl⟩
  rw [← hq]
  exact hlast.lifts_hold (by rwa [(envMoves_grows hu).cfg]) hheld ht

/-- What each outcome of an operation can do to the mode, the request, the hold and the model's own marks. -/
theorem ControlStep.mode_changes {s t : State} {i : Instr} (h : ControlStep s i t) :
    (s.fsm = .init → t.fsm = .run → i = .start ∧ s.ports.diagReady = true ∧ s.ports.rst = false)
    ∧ (s.fsm = .run → t.fsm = .init → i = .reset)
    ∧ (s.pendingSend = false → t.pendingSend = true →
        i = .trig ∧ s.fsm = .run ∧ s.cfg.txMode = .irq ∧ s.edge = true)
    ∧ (t.holding ≠ s.holding → i = .reset ∨ i = .trig ∨ i = .emit ∨ i = .time)
    ∧ (t.stuck ≠ s.stuck → i = .poll ∨ i = .tick ∨ i = .sample)
    ∧ t.inputs = s.inputs ∧ t.part = s.part := by
  cases h with
  | reset => simp
  | start h =>
    obtain ⟨hfree, hinit, hready⟩ := startEnabled_iff.mp h
    obtain ⟨hrst, -⟩ := mainFree_iff.mp hfree
    simp_all
  | trig h =>
    obtain ⟨-, hedge, hrun, hirq⟩ := trigEnabled_iff.mp h
    simp [hedge, hrun, hirq]
  | emit | time => simp_all
  | quiet h hstuck =>
    refine ⟨?_, ?_, ?_, ?_, hstuck.resolve_left, h.inputs, h.part⟩ <;>
      simp_all [h.fsm, h.pendingSend, h.holding]
  | transmit h => simp_all [h.fsm, h.pendingSend, h.holding, h.stuck, h.inputs, h.part]

end Sys2Proof.Machine
end

section
/-! SUPPORT. The statements about what a step changes and what only grows (10_state.md). -/

namespace Sys2Proof.Proofs

open Sys2Proof.Machine Sys2Proof.Safety

/-- Settles O56: each move of a step keeps the configuration, and time and the observation only grow. -/
theorem configurationTimeAndTraceOnlyGrow : Obligations.ConfigurationTimeAndTraceOnlyGrow := by
  unfold Obligations.ConfigurationTimeAndTraceOnlyGrow
  intro s t h
  obtain ⟨-, hmoves⟩ := step_next h
  obtain ⟨hcfg, htime, hevents⟩ := hmoves.grows
  exact ⟨hcfg, htime, hevents⟩

/-- Settles O58: an operation's outcomes one by one; a step lifts the hold only in its last move, which takes bytes from
the queue. -/
theorem onlyTheseEventsChangeMode : Obligations.OnlyTheseEventsChangeMode := by
  unfold Obligations.OnlyTheseEventsChangeMode
  refine ⟨fun i s t h => ?_, fun s t => step_lifts_hold⟩
  have hstep := exec_controlStep h
  obtain ⟨hrun, hinit, hsend, hmarks⟩ := hstep.mode_changes
  exact ⟨hrun, hinit, hsend, fun hs ht => (hstep.lifts_hold hs ht).1, hmarks⟩

end Sys2Proof.Proofs
end

section
/-! SUPPORT. Ranges of the binary32 operations (00_scope.md R10): from +0.0 up they do not reverse an order, and what a
value bounds before rounding it bounds after it. -/

namespace Sys2Proof.Machine

/-! ## Patterns from +0.0 up -/

theorem f32Mag_le_iff {a b : F32} (ha : a.toNat ≤ infBits) (hb : b.toNat ≤ infBits) :
    f32Mag a ≤ f32Mag b ↔ a.toNat ≤ b.toNat := by
  simp only [infBits] at ha hb
  rw [f32Mag_eq_patMag, f32Mag_eq_patMag, patMag_strictMono.le_iff_le, Nat.mod_eq_of_lt (by omega),
    Nat.mod_eq_of_lt (by omega)]

theorem f32Val_of_le_inf {a : F32} (h : a.toNat ≤ infBits) : f32Val a = f32Mag a := by
  simp [f32Val, (nonneg_of_le_inf h).1]

theorem roundMag_zero : roundMag 0 1 = 0 := by decide

/-- A product of finite values from +0.0 up. -/
theorem f32mul_toNat {a b : F32} (ha : a.toNat < infBits) (hb : b.toNat < infBits) :
    (f32mul a b).toNat = roundMag (f32Mag a * f32Mag b) (2 ^ 149) := by
  obtain ⟨hsa, hna⟩ := nonneg_of_le_inf ha.le
  obtain ⟨hsb, hnb⟩ := nonneg_of_le_inf hb.le
  simp [f32mul, hsa, hna, hsb, hnb, (finite_of_lt_inf ha).2, (finite_of_lt_inf hb).2,
    f32Pack_false_toNat (roundMag_le_inf _ _)]

/-- A sum of finite values from +0.0 up. -/
theorem f32add_toNat {a b : F32} (ha : a.toNat < infBits) (hb : b.toNat < infBits) :
    (f32add a b).toNat = roundMag (f32Mag a + f32Mag b) 1 := by
  obtain ⟨hsa, hna⟩ := nonneg_of_le_inf ha.le
  obtain ⟨hsb, hnb⟩ := nonneg_of_le_inf hb.le
  simp only [f32add, hsa, hna, hsb, hnb, (finite_of_lt_inf ha).2, (finite_of_lt_inf hb).2, f32Val_of_le_inf ha.le,
    f32Val_of_le_inf hb.le, Bool.or_self, Bool.and_self, Bool.false_eq_true, if_false, ← Nat.cast_add]
  split
  next h => rw [Int.natCast_eq_zero.mp h, roundMag_zero]; rfl
  next =>
    rw [decide_eq_false (by omega), Int.natAbs_natCast, f32Pack_false_toNat (roundMag_le_inf _ _)]

theorem f32mul_mono {a b c d : F32} (hac : a.toNat ≤ c.toNat) (hbd : b.toNat ≤ d.toNat) (hc : c.toNat < infBits)
    (hd : d.toNat < infBits) : (f32mul a b).toNat ≤ (f32mul c d).toNat := by
  rw [f32mul_toNat (by omega) (by omega), f32mul_toNat hc hd]
  refine roundMag_mono (by positivity) (by positivity) (Nat.mul_le_mul_right _ (Nat.mul_le_mul ?_ ?_))
  · exact (f32Mag_le_iff (by omega) hc.le).mpr hac
  · exact (f32Mag_le_iff (by omega) hd.le).mpr hbd

theorem f32add_mono {a b c d : F32} (hac : a.toNat ≤ c.toNat) (hbd : b.toNat ≤ d.toNat) (hc : c.toNat < infBits)
    (hd : d.toNat < infBits) : (f32add a b).toNat ≤ (f32add c d).toNat := by
  rw [f32add_toNat (by omega) (by omega), f32add_toNat hc hd]
  refine roundMag_mono one_pos one_pos (Nat.mul_le_mul_right _ (Nat.add_le_add ?_ ?_))
  · exact (f32Mag_le_iff (by omega) hc.le).mpr hac
  · exact (f32Mag_le_iff (by omega) hd.le).mpr hbd

/-! ## Values from +0.0 up, +infinity among them -/

theorem infBits_of_isInf {a : F32} (h : a.toNat ≤ infBits) (hinf : f32IsInf a = true) : a.toNat = infBits := by
  by_contra hne
  simp [(finite_of_lt_inf (lt_of_le_of_ne h hne)).2] at hinf

/-- A positive finite value times a value from +0.0 up is no NaN and not negative. -/
theorem f32mul_le_inf {a b : F32} (ha : a.toNat < infBits) (hpos : f32Mag a ≠ 0) (hb : b.toNat ≤ infBits) :
    (f32mul a b).toNat ≤ infBits := by
  obtain ⟨hsa, hna⟩ := nonneg_of_le_inf ha.le
  obtain ⟨hsb, hnb⟩ := nonneg_of_le_inf hb
  cases hinf : f32IsInf b with
  | false => simp [f32mul, hsa, hna, hsb, hnb, hinf, (finite_of_lt_inf ha).2,
      f32Pack_false_toNat (roundMag_le_inf _ _), roundMag_le_inf]
  | true =>
    have hmag : f32Mag b ≠ 0 := by
      rw [f32Mag_eq_patMag, infBits_of_isInf hb hinf]
      decide +kernel
    simp [f32mul, hsa, hna, hsb, hnb, hinf, hpos, hmag, f32Pack_false_toNat le_rfl]

/-- A value from +0.0 up divided by a positive finite value is no NaN and not negative. -/
theorem f32div_le_inf {a b : F32} (ha : a.toNat ≤ infBits) (hb : b.toNat < infBits) (hpos : f32Mag b ≠ 0) :
    (f32div a b).toNat ≤ infBits := by
  obtain ⟨hsa, hna⟩ := nonneg_of_le_inf ha
  obtain ⟨hsb, hnb⟩ := nonneg_of_le_inf hb.le
  cases hinf : f32IsInf a <;>
    simp [f32div, hsa, hna, hsb, hnb, hinf, hpos, (finite_of_lt_inf hb).2, f32Pack_false_toNat le_rfl,
      f32Pack_false_toNat (roundMag_le_inf _ _), roundMag_le_inf]

/-! ## What bounds the exact value bounds the rounded one -/

/-- Every whole number of at most 24 bits at a unit within the finite range is a binary32 value. -/
theorem exists_f32Val_eq {m : Int} {e : Nat} (hm : m.natAbs < 2 ^ 24) (he : e ≤ 253) :
    ∃ c : F32, f32IsFinite c = true ∧ f32Val c = m * 2 ^ e := by
  obtain ⟨hfin, hmag⟩ := roundMag_exact hm he
  refine ⟨f32Pack (decide (m < 0)) (roundMag (m.natAbs * 2 ^ e) 1), (f32IsFinite_f32Pack _ hfin.le).mpr hfin, ?_⟩
  rw [f32Val, f32Sign_f32Pack _ hfin.le, f32Mag_f32Pack _ hfin.le, hmag]
  by_cases h : m < 0
  · simp only [h, decide_true, if_true, Nat.cast_mul, Nat.cast_pow, Nat.cast_ofNat, Int.ofNat_natAbs_of_nonpos h.le]
    ring
  · simp [h, abs_of_nonneg (not_lt.mp h)]

/-- A rounded value is finite and at most `m * 2 ^ e` in magnitude where the exact one is. -/
theorem RoundsTo.bounded {r : F32} {t : Int} {den m e : Nat} (h : RoundsTo r t den) (hd : 0 < den)
    (hm : m < 2 ^ 24) (he : e ≤ 253) (ht : t.natAbs ≤ m * 2 ^ e * den) :
    f32IsFinite r = true ∧ (f32Val r).natAbs ≤ m * 2 ^ e := by
  obtain ⟨hfinite, hnear⟩ := h
  have hfin : f32IsFinite r = true := by
    refine hfinite.mpr (lt_of_le_of_lt ht (Nat.mul_lt_mul_of_pos_right ?_ hd))
    have hpow : 2 ^ e ≤ 2 ^ 253 := Nat.pow_le_pow_right (by norm_num) he
    have : m * 2 ^ e ≤ (2 ^ 24 - 1) * 2 ^ 253 := Nat.mul_le_mul (by omega) hpow
    omega
  refine ⟨hfin, ?_⟩
  obtain ⟨c, hc, hval⟩ := exists_f32Val_eq (m := m) (by simpa using hm) he
  obtain ⟨c', hc', hval'⟩ := exists_f32Val_eq (m := -m) (by simpa using hm) he
  have hle := (hnear hfin c hc).1
  have hge := (hnear hfin c' hc').1
  rw [hval, show (m : Int) * 2 ^ e * den = ((m * 2 ^ e * den : Nat) : Int) by push_cast; ring] at hle
  rw [hval', show (-m : Int) * 2 ^ e * den = -((m * 2 ^ e * den : Nat) : Int) by push_cast; ring] at hge
  have habs : (f32Val r * den).natAbs ≤ m * 2 ^ e * den := by
    generalize f32Val r * den = x at *
    omega
  rw [Int.natAbs_mul, Int.natAbs_natCast] at habs
  exact Nat.le_of_mul_le_mul_right habs hd

/-- A rounded value is within 2^-24 of a power of two that bounds the exact one. -/
theorem RoundsTo.error_le {r : F32} {t : Int} {den e : Nat} (h : RoundsTo r t den) (hd : 0 < den) (he : e ≤ 252)
    (ht : t.natAbs < 2 ^ 24 * 2 ^ e * den) :
    f32IsFinite r = true ∧ (f32Val r * den - t).natAbs ≤ 2 ^ e * den := by
  obtain ⟨hfinite, hnear⟩ := h
  have hpow : 2 ^ e ≤ 2 ^ 252 := Nat.pow_le_pow_right (by norm_num) he
  have hfin : f32IsFinite r = true := by
    refine hfinite.mpr (lt_of_lt_of_le ht (Nat.mul_le_mul_right den ?_))
    omega
  refine ⟨hfin, ?_⟩
  set unit : Nat := 2 ^ e * den with hunit
  have hpos : 0 < unit := by positivity
  have hquot : (t.tdiv unit).natAbs < 2 ^ 24 := by
    rw [Int.natAbs_tdiv, Int.natAbs_natCast]
    refine Nat.div_lt_of_lt_mul ?_
    rw [hunit]
    linarith
  obtain ⟨c, hc, hval⟩ := exists_f32Val_eq hquot (by omega : e ≤ 253)
  have hle := (hnear hfin c hc).1
  have hrem : (f32Val c * den - t).natAbs ≤ unit := by
    have hsplit : f32Val c * den - t = -t.tmod unit := by
      have := Int.tmod_add_mul_tdiv t unit
      rw [hval]
      rw [hunit] at this ⊢
      push_cast at this ⊢
      linarith
    rw [hsplit, Int.natAbs_neg, Int.natAbs_tmod, Int.natAbs_natCast]
    exact (Nat.mod_lt _ hpos).le
  exact hle.trans hrem

end Sys2Proof.Machine
end

section
/-! SUPPORT. The ranges of the datapath's values: the voltage, the illuminance, the accumulator and the FIR output
(40_sample_convert.md R102, R108, 10_state.md R29, 41_filter_cascade.md R134). -/

namespace Sys2Proof.Machine

open Sys2Proof.Safety

theorem i2f_nonneg (n : Nat) : (i2f n).toNat ≤ infBits := by
  rw [i2f, f32Pack_false_toNat (roundMag_le_inf _ _)]
  exact roundMag_le_inf _ _

/-- The voltage is no NaN and not negative. -/
theorem sampleVoltage_le_inf {c : Config} {code : Nat} (hcfg : configError c = none) (hcode : code ≤ codeMax) :
    (sampleVoltage c code).toNat ≤ infBits := by
  obtain ⟨-, -, ⟨hfin, hpos⟩, -⟩ := (configError_eq_none_iff c).mp hcfg
  obtain ⟨hsign, hmag⟩ := (f32Val_pos_iff _).mp hpos
  have hlt : c.vsupply.toNat < infBits := by
    have := (f32IsFinite_iff _).mp hfin
    rw [f32Sign_eq, decide_eq_false_iff_not] at hsign
    omega
  have hcode' : (i2f code).toNat < infBits := by
    have hfin' := (f32IsFinite_iff _).mp (i2f_exact (n := code) (by simp only [codeMax] at hcode; omega)).1
    have := i2f_nonneg code
    simp only [infBits] at this hfin' ⊢
    omega
  rw [sampleVoltage, i2f_codeMax]
  refine f32div_le_inf ?_ (by decide) (by decide +kernel)
  rw [f32mul_toNat hcode' hlt]
  exact roundMag_le_inf _ _

theorem le_inf_of_mem_expTable {key value : Nat} {breakpoints : List (F32 × F32)} {p : F32 × F32}
    (h : expTableRises key value breakpoints = true) (hp : p ∈ breakpoints) : p.2.toNat ≤ infBits := by
  induction breakpoints generalizing key value with
  | nil => cases hp
  | cons q rest ih =>
    simp only [expTableRises, Bool.and_eq_true, decide_eq_true_eq] at h
    obtain ⟨⟨-, hq⟩, hrest⟩ := h
    obtain rfl | hp := List.mem_cons.mp hp
    · exact hq
    · exact ih hrest hp

/-- The value of a well-formed table is no NaN and not negative, whichever breakpoint it is taken from. -/
theorem expTable_le_inf {key value : Nat} {breakpoints : List (F32 × F32)} (x : F32)
    (h : expTableRises key value breakpoints = true) : (expTable breakpoints x).toNat ≤ infBits := by
  refine List.foldlRecOn breakpoints _ (motive := fun y : F32 => y.toNat ≤ infBits) (by decide) fun y hy p hp => ?_
  split
  · exact le_inf_of_mem_expTable h hp
  · exact hy

/-- `EXPF` of a value from +0.0 up is no NaN and not negative. -/
theorem expf_le_inf {f : ExpFn} {x : F32} (hf : expFnOk f = true) (hx : x.toNat ≤ infBits) :
    (expf f x).toNat ≤ infBits := by
  obtain ⟨hsign, hnan⟩ := nonneg_of_le_inf hx
  cases f with
  | correctlyRounded =>
    simp only [expf, hnan, hsign, Bool.false_eq_true, if_false, expCorrectlyRounded]
    split
    · rw [f32Pack_false_toNat le_rfl]
    · rw [f32Pack_false_toNat (roundMag_le_inf _ _)]
      exact roundMag_le_inf _ _
  | table breakpoints =>
    simp only [expf, hnan, hsign, Bool.false_eq_true, if_false]
    exact expTable_le_inf x hf

/-- The raw formula at a voltage from +0.0 up is no NaN and not negative. -/
theorem rawLux_le_inf {c : Config} {v : F32} (hcfg : configError c = none) (hv : v.toNat ≤ infBits) :
    (rawLux c v).toNat ≤ infBits := by
  obtain ⟨-, -, -, -, -, -, -, -, hexp⟩ := (configError_eq_none_iff c).mp hcfg
  have hc1 : c1.toNat < infBits ∧ f32Mag c1 ≠ 0 := by decide +kernel
  have hc2 : c2.toNat < infBits ∧ f32Mag c2 ≠ 0 := by decide +kernel
  exact f32mul_le_inf hc1.1 hc1.2 (expf_le_inf hexp (f32mul_le_inf hc2.1 hc2.2 hv))

/-- The clamp cuts every value from +0.0 up to the display range. -/
theorem clampLux_inDisplayRange {raw : F32} (h : raw.toNat ≤ infBits) : InDisplayRange (clampLux raw) := by
  have hceil : luxCeil.toNat ≤ infBits := by decide
  rw [clampLux]
  split
  · decide
  next hgt =>
    simp only [f32gt, (nonneg_of_le_inf h).2, (nonneg_of_le_inf hceil).2, f32Val_of_le_inf h, f32Val_of_le_inf hceil,
      Bool.not_false, Bool.true_and, decide_eq_true_eq, not_lt, Nat.cast_le] at hgt
    exact (f32Mag_le_iff h hceil).mp hgt

/-- CONVERT of a voltage from +0.0 up lies in the display range. -/
theorem lux_inDisplayRange {c : Config} {v : F32} (hcfg : configError c = none) (hv : v.toNat ≤ infBits) :
    InDisplayRange (clampLux (rawLux c v)) :=
  clampLux_inDisplayRange (rawLux_le_inf hcfg hv)

/-- 999.0 fed to 999.0 is kept, and with it, since EWMA does not reverse an order, the whole range below. -/
theorem ewmaNext_inDisplayRange {a x : F32} (ha : InDisplayRange a) (hx : InDisplayRange x) :
    InDisplayRange (ewmaNext a x) := by
  have hkept : (ewmaNext luxCeil luxCeil).toNat = luxCeil.toNat := by decide +kernel
  have halpha : alpha.toNat < infBits ∧ (f32mul alpha luxCeil).toNat < infBits := by decide +kernel
  have hbeta : beta.toNat < infBits ∧ (f32mul beta luxCeil).toNat < infBits := by decide +kernel
  have hceil : luxCeil.toNat < infBits := by decide
  calc (ewmaNext a x).toNat ≤ (ewmaNext luxCeil luxCeil).toNat :=
        f32add_mono (f32mul_mono (by omega) ha (by omega) hceil) (f32mul_mono (by omega) hx (by omega) hceil)
          halpha.2 hbeta.2
    _ = luxCeil.toNat := hkept

theorem finite_of_inDisplayRange {x : F32} (h : InDisplayRange x) : f32IsFinite x = true :=
  (finite_of_lt_inf (by simp only [infBits]; omega)).1

/-- A value of the display range is at most 999. -/
theorem f32Val_of_inDisplayRange {x : F32} (h : InDisplayRange x) : 0 ≤ f32Val x ∧ f32Val x ≤ 999 * 2 ^ 149 := by
  have hceil : f32Mag luxCeil = 999 * 2 ^ 149 := by decide +kernel
  have hx : x.toNat ≤ infBits := by simp only [infBits]; omega
  have hle : f32Mag x ≤ f32Mag luxCeil := (f32Mag_le_iff hx (by decide)).mpr h
  rw [f32Val_of_le_inf hx]
  omega

/-- FIR's running sum after `k` products, each at most 2^10 times 2^100, is at most `k` times that (2^259 units of
2^-149). -/
theorem firSum_finite {hist weights : List F32} (hx : ∀ x ∈ hist, InDisplayRange x)
    (hw : ∀ w ∈ weights, f32IsFinite w = true ∧ f32Mag w ≤ 2 ^ 249) {acc : F32} {k : Nat}
    (hacc : f32IsFinite acc = true) (hk : (f32Val acc).natAbs ≤ k * 2 ^ 6 * 2 ^ 253)
    (hlen : k + weights.length ≤ 65536) : f32IsFinite (firSum acc hist weights) = true := by
  induction hist generalizing acc k weights with
  | nil => exact hacc
  | cons x hist ih =>
    cases weights with
    | nil => exact hacc
    | cons w weights =>
      obtain ⟨hfin, hmag⟩ := hw w (by simp)
      have hxr := hx x (by simp)
      have hprod := (f32mul_roundsTo (finite_of_inDisplayRange hxr) hfin).bounded (m := 2 ^ 6) (e := 253)
        (by positivity) (by norm_num) le_rfl (by
          rw [Int.natAbs_mul, f32Val_natAbs w]
          calc (f32Val x).natAbs * f32Mag w ≤ 2 ^ 159 * 2 ^ 249 :=
                Nat.mul_le_mul (by have := f32Val_of_inDisplayRange hxr; omega) hmag
            _ = 2 ^ 6 * 2 ^ 253 * 2 ^ 149 := by norm_num)
      rw [List.length_cons] at hlen
      have hsum := (f32add_roundsTo hacc hprod.1).bounded (m := (k + 1) * 2 ^ 6) (e := 253)
        one_pos (by omega) le_rfl (by omega)
      exact ih (fun y hy => hx y (by simp [hy])) (fun v hv => hw v (by simp [hv])) hsum.1 hsum.2 (by omega)

/-- The FIR output over samples of the display range is finite, with the weights of a well-formed configuration. -/
theorem firSum_finite_of_config {c : Config} {hist : List F32} (hcfg : configError c = none)
    (hx : ∀ x ∈ hist, InDisplayRange x) : f32IsFinite (firSum 0 hist c.firW) = true := by
  obtain ⟨-, hfin, -, -, -, -, -, ⟨hlen, hmag⟩, -⟩ := (configError_eq_none_iff c).mp hcfg
  exact firSum_finite (k := 0) hx (fun w hw => ⟨hfin w hw, hmag w hw⟩) (by decide) (by decide) (by simpa using hlen)

end Sys2Proof.Machine
end

section
/-! SUPPORT. What an operation and a step can do to the data registers, said once, and the invariant of the machine in
three parts: the data, the control part, the core under `rst` (10_state.md R28, R29, R33, R35,
70_reset_and_hazards.md R230). -/

namespace Sys2Proof.Machine

open Relation Sys2Proof.Safety

/-! ## The moves of the data registers -/

/-- `t` has the configuration, the filter registers and the tick's local values of `s`. -/
structure SameData (s t : State) : Prop where
  cfg : t.cfg = s.cfg
  luxLast : t.luxLast = s.luxLast
  smoothed : t.smoothed = s.smoothed
  rawHist : t.rawHist = s.rawHist
  notchHist : t.notchHist = s.notchHist
  notchOut : t.notchOut = s.notchOut
  firOut : t.firOut = s.firOut
  v : t.locals.v = s.locals.v
  lux : t.locals.lux = s.locals.lux

theorem SameData.refl (s : State) : SameData s s := by constructor <;> rfl

theorem xmitOp_sameData (s : State) : SameData s (xmitOp s) := by
  rw [xmitOp_eq]
  exact { SameData.refl s with }

/-- One move of the data registers: a stage of the tick, its end, RESET, or none. -/
inductive DataMove (s : State) : State → Prop
  | keep {t : State} (h : SameData s t) : DataMove s t
  | reset : DataMove s (resetCore s)
  | sample (h : s.ports.adcCode ≤ codeMax) : DataMove s (sampleOp s)
  | convert : DataMove s (convertOp s)
  | ewma : DataMove s (ewmaOp s)
  | hpush : DataMove s (hpushOp s)
  | notch {t : State} (h : notchOp s = .next t) : DataMove s t
  | fir {t : State} (h : firOp s = .next t) : DataMove s t
  | clear : DataMove s (clearTickLocals s)

/-- Moves of the data registers, one after another. -/
abbrev DataMoves : State → State → Prop := ReflTransGen DataMove

theorem DataMove.moves {s t : State} (h : DataMove s t) : DataMoves s t := .single h

theorem SameData.moves {s t : State} (h : SameData s t) : DataMoves s t := .single (.keep h)

theorem tickOp_dataMoves {s t : State} (hcode : s.ports.adcCode ≤ codeMax) (h : tickOp s = .next t) :
    DataMoves s t := by
  simp only [tickOp, andThen_eq_next] at h
  obtain ⟨u, hu, v, hv, ht⟩ := h
  cases ht
  have stages : DataMoves s (hpushOp (ewmaOp (convertOp (sampleOp s)))) :=
    (((DataMove.sample hcode).moves.tail .convert).tail .ewma).tail .hpush
  exact ((stages.tail (.notch hu)).tail (.fir hv)).tail .clear

/-- A gated part makes its own moves, or none. -/
theorem dataMoves_of_whenFree {s t : State} {r : Result} (h : whenFree s r = .next t)
    (hr : r = .next t → DataMoves s t) : DataMoves s t := by
  obtain ⟨-, rfl⟩ | ⟨-, h⟩ := whenFree_eq_next.mp h
  · exact .refl
  · exact hr h

theorem dataMoves_of_withConversion {s t : State} {r : Result} (h : withConversion s r = .next t)
    (hr : s.ports.adcCode ≤ codeMax → r = .next t → DataMoves s t) : DataMoves s t := by
  obtain ⟨-, rfl⟩ | ⟨hcode, h⟩ := withConversion_eq_next.mp h
  · exact SameData.moves { SameData.refl s with }
  · exact hr hcode h

theorem execPoll_dataMoves {s t : State} (h : execPoll s = .next t) : DataMoves s t := by
  obtain ⟨-, rfl⟩ | ⟨-, -, -, rfl⟩ | ⟨-, hcode, u, hu, rfl⟩ := execPoll_next h
  · exact .refl
  · exact SameData.moves { SameData.refl s with }
  · have sampled : DataMoves s u := by
      have opened : SameData s { s with locals := { s.locals with now := nowOf s } } := { SameData.refl s with }
      obtain ⟨-, rfl⟩ | ⟨hd, v, hv, rfl⟩ := pollSample_next hu
      · exact opened.moves
      · exact (opened.moves.trans (tickOp_dataMoves (hcode hd) hv)).tail (.keep { SameData.refl v with })
    have transmitted : SameData u (pollTransmit (nowOf s) u) := by
      rw [pollTransmit]
      split
      · exact xmitOp_sameData u
      · exact .refl u
    exact sampled.tail (.keep { transmitted with })

/-- Whenever an operation answers a next state, moves of the data registers led there. -/
theorem exec_dataMoves {i : Instr} {s t : State} (h : exec i s = .next t) : DataMoves s t := by
  cases i with
  | reset => cases h; exact DataMove.reset.moves
  | time => cases h; exact SameData.moves { SameData.refl s with }
  | start =>
    simp only [exec, execStart] at h
    split at h <;> cases h
    · exact SameData.moves { SameData.refl s with }
    · exact .refl
  | trig =>
    simp only [exec, execTrig] at h
    split at h <;> cases h
    · exact SameData.moves { SameData.refl s with }
    · exact .refl
  | emit =>
    obtain rfl | ⟨b, rest, -, -, rfl⟩ := execEmit_next h
    · exact .refl
    · exact SameData.moves { SameData.refl s with }
  | poll => exact execPoll_dataMoves h
  | tick =>
    exact dataMoves_of_whenFree h fun h => dataMoves_of_withConversion h tickOp_dataMoves
  | sample =>
    refine dataMoves_of_whenFree h fun h => dataMoves_of_withConversion h fun hcode h => ?_
    cases h
    exact (DataMove.sample hcode).moves
  | convert => exact dataMoves_of_whenFree h fun h => by cases h; exact DataMove.convert.moves
  | ewma => exact dataMoves_of_whenFree h fun h => by cases h; exact DataMove.ewma.moves
  | hpush => exact dataMoves_of_whenFree h fun h => by cases h; exact DataMove.hpush.moves
  | notch => exact dataMoves_of_whenFree h fun h => (DataMove.notch h).moves
  | fir => exact dataMoves_of_whenFree h fun h => (DataMove.fir h).moves
  | xmit =>
    refine dataMoves_of_whenFree h fun h => ?_
    split at h <;> cases h
    · exact (xmitOp_sameData s).moves
    · exact .refl
  | value | crc8 | packBin | packTxt | diag =>
    exact dataMoves_of_whenFree h fun h => by cases h; exact SameData.moves { SameData.refl s with }

theorem EnvMove.sameData {s t : State} (h : EnvMove s t) : SameData s t := by
  cases h <;> exact { SameData.refl s with }

theorem LastMove.dataMoves {s t : State} (h : LastMove s t) : DataMoves s t := by
  cases h with
  | none => exact .refl
  | levels p =>
    cases hp : p.rst with
    | true =>
      rw [setLevels_of_rst hp]
      have same : SameData s { s with ports := p } := { SameData.refl s with }
      exact same.moves.tail .reset
    | false =>
      rw [setLevels_of_not_rst hp]
      exact SameData.moves { SameData.refl s with }
  | op h => exact exec_dataMoves h

theorem StepMoves.dataMoves {s t : State} (h : StepMoves s t) : DataMoves s t := by
  obtain ⟨u, hu, hlast⟩ := h
  have hsu : DataMoves s u := envMoves_keep (P := DataMoves s) (fun h hs => hs.tail (.keep h.sameData)) hu .refl
  exact hsu.trans hlast.dataMoves

/-- What every move of the data registers keeps, moves one after another keep. -/
theorem DataMoves.keep {P : State → Prop} (keep : ∀ {s t}, DataMove s t → P s → P t) {s t : State}
    (h : DataMoves s t) (hs : P s) : P t := by
  induction h with
  | refl => exact hs
  | tail _ hmove ih => exact keep hmove ih

/-! ## The data part of the invariant -/

/-- The part of the invariant that speaks of the configuration and the data registers. -/
def DataInv (s : State) : Prop := configError s.cfg = none ∧ HistoryShape s ∧ ValueRanges s

theorem SameData.dataInv {s t : State} (h : SameData s t) (hs : DataInv s) : DataInv t := by
  simpa only [DataInv, HistoryShape, ValueRanges, h.cfg, h.luxLast, h.smoothed, h.rawHist, h.notchHist, h.firOut, h.v,
    h.lux] using hs

/-- The reset values are in their ranges (42_scheduler_trigger.md R150). -/
theorem resetValues_ranges (n : Nat) :
    InDisplayRange 0 ∧ ((List.replicate n (0 : F32)).all fun x => decide (InDisplayRange x)) = true
      ∧ (0 : F32).toNat ≤ infBits ∧ f32IsFinite 0 = true := by
  refine ⟨by decide, ?_, by decide, by decide⟩
  simp [List.all_replicate]

theorem mem_rawHist_inDisplayRange {s : State} (h : ValueRanges s) : ∀ x ∈ s.rawHist, InDisplayRange x := by
  obtain ⟨-, -, hraw, -⟩ := h
  simpa using hraw

theorem DataMove.dataInv {s t : State} (h : DataMove s t) (hs : DataInv s) : DataInv t := by
  have ⟨hcfg, ⟨hraw, hnotch⟩, hluxLast, hsmoothed, hrange, hlux, hv, hfir⟩ := hs
  cases h with
  | keep h => exact h.dataInv hs
  | reset =>
    obtain ⟨hzero, hzeros, hvolt, hfinite⟩ := resetValues_ranges s.cfg.histLen
    exact ⟨hcfg, ⟨List.length_replicate, rfl⟩, hzero, hzero, hzeros, hzero, hvolt, hfinite⟩
  | sample hcode =>
    exact ⟨hcfg, ⟨hraw, hnotch⟩, hluxLast, hsmoothed, hrange, hlux, sampleVoltage_le_inf hcfg hcode, hfir⟩
  | convert =>
    have hnew := lux_inDisplayRange hcfg hv
    exact ⟨hcfg, ⟨hraw, hnotch⟩, hnew, hsmoothed, hrange, hnew, hv, hfir⟩
  | ewma =>
    exact ⟨hcfg, ⟨hraw, hnotch⟩, hluxLast, ewmaNext_inDisplayRange hsmoothed hlux, hrange, hlux, hv, hfir⟩
  | hpush =>
    have hpushed : ∀ x ∈ historyPush s.rawHist s.locals.lux, InDisplayRange x := fun x hx => by
      obtain rfl | hx := mem_historyPush hx
      · exact hlux
      · exact mem_rawHist_inDisplayRange hs.2.2 x hx
    exact ⟨hcfg, ⟨(historyPush_length _ _).trans hraw, hnotch⟩, hluxLast, hsmoothed,
      by simpa [hpushOp] using hpushed, hlux, hv, hfir⟩
  | notch h =>
    obtain ⟨out, rfl⟩ := notchOp_next h
    exact ⟨hcfg, ⟨hraw, (historyPush_length _ _).trans hnotch⟩, hluxLast, hsmoothed, hrange, hlux, hv, hfir⟩
  | fir h =>
    obtain ⟨-, rfl⟩ := firOp_eq_next.mp h
    exact ⟨hcfg, ⟨hraw, hnotch⟩, hluxLast, hsmoothed, hrange, hlux, hv,
      firSum_finite_of_config hcfg (mem_rawHist_inDisplayRange hs.2.2)⟩
  | clear =>
    obtain ⟨hzero, -, hvolt, -⟩ := resetValues_ranges 0
    exact ⟨hcfg, ⟨hraw, hnotch⟩, hluxLast, hsmoothed, hrange, hzero, hvolt, hfir⟩

/-! ## The control part of the invariant -/

/-- The part of the invariant that speaks of the queue, the request, the edge, the hold and the point inside a
composite. -/
def ControlInv (s : State) : Prop :=
  s.txq.length ≤ s.cfg.txqDepth ∧ TriggerShape s ∧ HoldShape s ∧ s.part = none

theorem holdShape_of_held {s t : State} (hfsm : t.fsm = s.fsm) (hcfg : t.cfg = s.cfg) (htxq : t.txq = s.txq)
    (hhold : t.holding = held s) : HoldShape t := by
  intro h
  obtain ⟨hrun, -, hroom⟩ := held_iff.mp (hhold.symm.trans h)
  rw [hfsm, hcfg, htxq]
  exact ⟨hrun, hroom⟩

theorem advanceTo_controlInv {s : State} (t : Nat) (hs : ControlInv s) : ControlInv (advanceTo t s) := by
  obtain ⟨hq, htrig, -, hpart⟩ := hs
  exact ⟨hq, htrig, holdShape_of_held (s := s) rfl rfl rfl rfl, hpart⟩

theorem resetCore_controlInv {s : State} (hpart : s.part = none) : ControlInv (resetCore s) := by
  exact ⟨Nat.zero_le _, ⟨by simp, by simp⟩, by simp [HoldShape], hpart⟩

/-- An edge is remembered only in RUN, in IRQ mode (42_scheduler_trigger.md R165). -/
theorem edgeAfter_shape {s : State} {new : Bool} (hs : s.edge = true → s.cfg.txMode = .irq ∧ s.fsm = .run)
    (h : edgeAfter s new = true) : s.cfg.txMode = .irq ∧ s.fsm = .run := by
  simp only [edgeAfter, Bool.or_eq_true, Bool.and_eq_true, beq_iff_eq] at h
  obtain h | ⟨⟨⟨-, hrun⟩, hirq⟩, -⟩ := h
  · exact hs h
  · exact ⟨hirq, hrun⟩

theorem ControlStep.controlInv {s t : State} {i : Instr} (h : ControlStep s i t) (hs : ControlInv s) :
    ControlInv t := by
  have ⟨hq, ⟨hsend, hedge⟩, hhold, hpart⟩ := hs
  cases h with
  | reset => exact resetCore_controlInv hpart
  | start h =>
    obtain ⟨-, hinit, -⟩ := startEnabled_iff.mp h
    refine ⟨hq, ⟨fun h => ?_, fun h => ?_⟩, fun h => ?_, hpart⟩
    · exact ⟨(hsend h).1, rfl⟩
    · exact ⟨(hedge h).1, rfl⟩
    · exact ⟨rfl, (hhold h).2⟩
  | trig h =>
    obtain ⟨-, -, hrun, hirq⟩ := trigEnabled_iff.mp h
    exact ⟨hq, ⟨fun _ => ⟨hirq, hrun⟩, by simp⟩, holdShape_of_held (s := s) rfl rfl rfl rfl, hpart⟩
  | emit hb =>
    refine ⟨?_, ⟨hsend, hedge⟩, fun h => ?_, hpart⟩
    · rw [hb, List.length_cons] at hq
      exact Nat.le_of_succ_le hq
    · simp only [releaseHold_holding, emitEvent_holding, Bool.and_eq_true, Bool.not_eq_true', ← Bool.not_eq_true,
        txqRoom_iff, not_le] at h
      exact ⟨(hhold h.1).1, h.2⟩
  | time => exact advanceTo_controlInv _ hs
  | quiet h =>
    simpa only [ControlInv, TriggerShape, HoldShape, h.cfg, h.fsm, h.txq, h.pendingSend, h.edge, h.holding, h.part]
      using hs
  | transmit h =>
    obtain ⟨frame, hlen, htxq⟩ := h.txq
    have hroom := txqRoom_iff.mp h.room
    simp only [ControlInv, TriggerShape, HoldShape, h.cfg, h.fsm, h.edge, h.holding, h.part, h.pendingSend, htxq,
      List.length_append, hlen]
    exact ⟨hroom, ⟨by simp, hedge⟩, fun h => ⟨(hhold h).1, by have := (hhold h).2; omega⟩, hpart⟩

theorem EnvMove.controlInv {s t : State} (h : EnvMove s t) (hs : ControlInv s) : ControlInv t := by
  have ⟨hq, ⟨hsend, hedge⟩, hhold, hpart⟩ := hs
  cases h with
  | inputs | ports => exact hs
  | part => exact ⟨hq, ⟨hsend, hedge⟩, hhold, rfl⟩
  | advance => exact advanceTo_controlInv _ hs
  | rise => exact ⟨hq, ⟨hsend, edgeAfter_shape hedge⟩, hhold, hpart⟩

theorem LastMove.controlInv {s t : State} (h : LastMove s t) (hs : ControlInv s) : ControlInv t := by
  have ⟨hq, ⟨hsend, hedge⟩, hhold, hpart⟩ := hs
  cases h with
  | none => exact hs
  | levels p =>
    cases hp : p.rst with
    | true => rw [setLevels_of_rst hp]; exact resetCore_controlInv hpart
    | false => rw [setLevels_of_not_rst hp]; exact ⟨hq, ⟨hsend, edgeAfter_shape hedge⟩, hhold, hpart⟩
  | op h => exact (exec_controlStep h).controlInv hs

/-! ## The core under `rst` -/

/-- While `rst` is 1 the core is at its reset values. -/
def ResetInv (s : State) : Prop := s.ports.rst = true → resetCore s = s

theorem resetCore_resetInv (s : State) : ResetInv (resetCore s) := fun _ => resetCore_idem s

/-- A core at its reset values is not held, so that no hold begins as time passes. -/
theorem advanceTo_resetInv {s : State} (t : Nat) (hs : ResetInv s) : ResetInv (advanceTo t s) := by
  intro hrst
  have hcore := hs hrst
  have hheld : held s = false := by rw [← hcore]; rfl
  calc resetCore (advanceTo t s) = { resetCore s with time := t } := rfl
    _ = { s with time := t, holding := (resetCore s).holding } := by rw [hcore]
    _ = advanceTo t s := by rw [advanceTo, hheld]; rfl

theorem EnvMove.resetInv {s t : State} (h : EnvMove s t) (hs : ResetInv s) : ResetInv t := by
  cases h with
  | inputs l =>
    intro hrst
    calc resetCore { s with inputs := l } = { resetCore s with inputs := l } := rfl
      _ = { s with inputs := l } := by rw [hs hrst]
  | part =>
    intro hrst
    calc resetCore { s with part := none } = { resetCore s with part := none } := rfl
      _ = { s with part := none } := by rw [hs hrst]
  | advance => exact advanceTo_resetInv _ hs
  | @ports p hp =>
    intro hrst
    calc resetCore { s with ports := p } = { resetCore s with ports := p } := rfl
      _ = { s with ports := p } := by rw [hs (hp.symm.trans hrst)]
  | rise =>
    intro (hrst : s.ports.rst = true)
    have hcore := hs hrst
    have hzero : s.edge = false := by rw [← hcore]; rfl
    have hedge : edgeAfter { s with ports := { s.ports with trigIn := false } } true = false := by
      simp [edgeAfter, hrst, hzero]
    calc resetCore (risingEdge s) = { resetCore s with ports := { s.ports with trigIn := true } } := rfl
      _ = { s with ports := { s.ports with trigIn := true }, edge := (resetCore s).edge } := by rw [hcore]
      _ = risingEdge s := by rw [risingEdge, hedge]; rfl

theorem LastMove.resetInv {s t : State} (h : LastMove s t) (hs : ResetInv s) : ResetInv t := by
  cases h with
  | none => exact hs
  | levels p =>
    intro hrst
    rw [setLevels_ports] at hrst
    rw [setLevels_of_rst hrst]
    exact resetCore_idem _
  | @op i t h =>
    intro hrst
    have hports : t.ports = s.ports := (exec_controlStep h).ports_eq
    obtain rfl | rfl | rfl := exec_of_rst h (hports ▸ hrst)
    · exact hs hrst
    · exact resetCore_idem s
    · exact advanceTo_resetInv _ hs hrst

/-! ## The invariant -/

theorem inv_iff {s : State} : Inv s ↔ DataInv s ∧ ControlInv s ∧ ResetInv s := by
  constructor
  · rintro ⟨hcfg, hshape, hq, hranges, htrig, hhold, hpart, hrst⟩
    exact ⟨⟨hcfg, hshape, hranges⟩, ⟨hq, htrig, hhold, hpart⟩, hrst⟩
  · rintro ⟨⟨hcfg, hshape, hranges⟩, ⟨hq, htrig, hhold, hpart⟩, hrst⟩
    exact ⟨hcfg, hshape, hq, hranges, htrig, hhold, hpart, hrst⟩

theorem LastMove.inv {s t : State} (h : LastMove s t) (hs : Inv s) : Inv t := by
  obtain ⟨hdata, hcontrol, hreset⟩ := inv_iff.mp hs
  exact inv_iff.mpr ⟨h.dataMoves.keep DataMove.dataInv hdata, h.controlInv hcontrol, h.resetInv hreset⟩

theorem EnvMove.inv {s t : State} (h : EnvMove s t) (hs : Inv s) : Inv t := by
  obtain ⟨hdata, hcontrol, hreset⟩ := inv_iff.mp hs
  exact inv_iff.mpr ⟨h.sameData.dataInv hdata, h.controlInv hcontrol, h.resetInv hreset⟩

theorem StepMoves.inv {s t : State} (h : StepMoves s t) (hs : Inv s) : Inv t := by
  obtain ⟨u, hu, hlast⟩ := h
  exact hlast.inv (envMoves_keep EnvMove.inv hu hs)

/-- The power-up state has the invariant: it is a state at the reset values, out of reset. -/
theorem powerUp_inv {c : Config} (hcfg : configError c = none) : Inv (State.powerUp c) := by
  obtain ⟨hzero, hzeros, hvolt, hfinite⟩ := resetValues_ranges c.histLen
  refine inv_iff.mpr ⟨?_, ?_, fun _ => rfl⟩
  · exact ⟨hcfg, ⟨List.length_replicate, rfl⟩, hzero, hzero, hzeros, hzero, hvolt, hfinite⟩
  · exact resetCore_controlInv (s := State.powerUp c) rfl

end Sys2Proof.Machine
end

section
/-! SUPPORT. The statements about the invariant (10_state.md). -/

namespace Sys2Proof.Proofs

open Sys2Proof.Machine Sys2Proof.Safety

/-- Settles O44: EWMA does not reverse an order and keeps 999.0. -/
theorem ewmaStaysInRange : Obligations.EwmaStaysInRange := by
  unfold Obligations.EwmaStaysInRange
  exact ⟨fun a x => ewmaNext_inDisplayRange, by decide +kernel, by decide +kernel⟩

/-- Settles O51: every register is at its reset value, which lies in its range. -/
theorem invariantHoldsAtPowerUp : Obligations.InvariantHoldsAtPowerUp := by
  unfold Obligations.InvariantHoldsAtPowerUp
  exact ⟨fun c => powerUp_inv, powerUp_inv (by decide)⟩

/-- Settles O52: each part of the invariant is kept by every move of a step. -/
theorem everyStepKeepsTheInvariant : Obligations.EveryStepKeepsTheInvariant := by
  unfold Obligations.EveryStepKeepsTheInvariant
  intro s t hs h
  exact (step_next h).2.inv hs

end Sys2Proof.Proofs
end

section
/-! SUPPORT. The notch outputs stay bounded (41_filter_cascade.md R128 to R130): the recursion without input shrinks
the energy by 0.9391, and inputs of the display range and nine roundings add less than that frees. -/

namespace Sys2Proof.Machine

open Relation Sys2Proof.Safety

/-! ## Values as rationals -/

/-- The value of a finite pattern. -/
def f32Rat (a : F32) : ℚ := f32Val a / 2 ^ 149

theorem abs_intCast_le_iff {x : Int} {n : Nat} : |(x : ℚ)| ≤ n ↔ x.natAbs ≤ n := by
  rw [← Int.cast_abs, Int.abs_eq_natAbs, Int.cast_natCast, Nat.cast_le]

theorem abs_intCast_lt_iff {x : Int} {n : Nat} : |(x : ℚ)| < n ↔ x.natAbs < n := by
  rw [← Int.cast_abs, Int.abs_eq_natAbs, Int.cast_natCast, Nat.cast_lt]

/-- Rounding an exact value below 2^19 in magnitude is off by at most 2^-5. -/
theorem RoundsTo.near {r : F32} {t : Int} {den : Nat} {x : ℚ} (h : RoundsTo r t den) (hd : 0 < den)
    (hx : (t : ℚ) = x * (2 ^ 149 * den)) (hlt : |x| < 2 ^ 19) :
    f32IsFinite r = true ∧ |f32Rat r - x| ≤ 1 / 32 := by
  have hden : (0 : ℚ) < den := by exact_mod_cast hd
  have hsmall : t.natAbs < 2 ^ 24 * 2 ^ 144 * den := by
    rw [← abs_intCast_lt_iff, hx, abs_mul, abs_of_pos (by positivity : (0 : ℚ) < 2 ^ 149 * den)]
    calc |x| * (2 ^ 149 * den) < 2 ^ 19 * (2 ^ 149 * den) := by gcongr
      _ = _ := by push_cast; ring
  obtain ⟨hfin, herr⟩ := h.error_le hd (by norm_num) hsmall
  refine ⟨hfin, ?_⟩
  rw [← abs_intCast_le_iff] at herr
  push_cast at herr
  rw [hx, show (f32Val r : ℚ) * den - x * (2 ^ 149 * den) = (f32Rat r - x) * (2 ^ 149 * den) by
    rw [f32Rat]; ring, abs_mul, abs_of_pos (by positivity : (0 : ℚ) < 2 ^ 149 * den)] at herr
  refine le_of_mul_le_mul_right (herr.trans_eq ?_) (by positivity : (0 : ℚ) < 2 ^ 149 * den)
  ring

theorem f32add_near {a b : F32} (ha : f32IsFinite a = true) (hb : f32IsFinite b = true)
    (hlt : |f32Rat a + f32Rat b| < 2 ^ 19) :
    f32IsFinite (f32add a b) = true ∧ |f32Rat (f32add a b) - (f32Rat a + f32Rat b)| ≤ 1 / 32 :=
  (f32add_roundsTo ha hb).near one_pos (by push_cast [f32Rat]; ring) hlt

theorem f32mul_near {a b : F32} (ha : f32IsFinite a = true) (hb : f32IsFinite b = true)
    (hlt : |f32Rat a * f32Rat b| < 2 ^ 19) :
    f32IsFinite (f32mul a b) = true ∧ |f32Rat (f32mul a b) - f32Rat a * f32Rat b| ≤ 1 / 32 :=
  (f32mul_roundsTo ha hb).near (by positivity) (by push_cast [f32Rat]; ring) hlt

theorem f32Rat_of_inDisplayRange {x : F32} (h : InDisplayRange x) : 0 ≤ f32Rat x ∧ f32Rat x ≤ 999 := by
  obtain ⟨hlow, hhigh⟩ := f32Val_of_inDisplayRange h
  have hlow : (0 : ℚ) ≤ f32Val x := by exact_mod_cast hlow
  have hhigh : (f32Val x : ℚ) ≤ 999 * 2 ^ 149 := by exact_mod_cast hhigh
  exact ⟨by rw [f32Rat]; positivity, by rw [f32Rat, div_le_iff₀ (by positivity)]; exact hhigh⟩

/-! ## One notch output -/

theorem notch_coefficients :
    (f32IsFinite nb0 = true ∧ f32Rat nb0 = 13159209 / 2 ^ 23)
      ∧ (f32IsFinite nb1 = true ∧ f32Rat nb1 = -15755484 / 2 ^ 24)
      ∧ (f32IsFinite na0 = true ∧ f32Rat na0 = 16265511 / 2 ^ 24)
      ∧ (f32IsFinite na1 = true ∧ f32Rat na1 = -13159209 / 2 ^ 23) := by
  have values : f32Val nb0 = 13159209 * 2 ^ 126 ∧ f32Val nb1 = -15755484 * 2 ^ 125 ∧ f32Val na0 = 16265511 * 2 ^ 125
      ∧ f32Val na1 = -13159209 * 2 ^ 126 := by decide +kernel
  obtain ⟨h0, h1, h2, h3⟩ := values
  simp only [f32Rat, h0, h1, h2, h3]
  refine ⟨⟨by decide, ?_⟩, ⟨by decide, ?_⟩, ⟨by decide, ?_⟩, ⟨by decide, ?_⟩⟩ <;> norm_num

/-- A notch output of bounded outputs and samples of the display range is the recursion's value up to 2000. -/
theorem notchSum_near {n0 n1 r0 r1 r2 : F32} (hn0 : f32IsFinite n0 = true) (hn1 : f32IsFinite n1 = true)
    (h0 : |f32Rat n0| ≤ 2 ^ 17) (h1 : |f32Rat n1| ≤ 2 ^ 17) (hr0 : InDisplayRange r0) (hr1 : InDisplayRange r1)
    (hr2 : InDisplayRange r2) :
    f32IsFinite (notchSum n0 n1 r0 r1 r2) = true ∧
      |f32Rat (notchSum n0 n1 r0 r1 r2) - (15687 / 10000 * f32Rat n0 - 9391 / 10000 * f32Rat n1)| ≤ 2000 := by
  obtain ⟨⟨fb0, vb0⟩, ⟨fb1, vb1⟩, ⟨fa0, va0⟩, ⟨fa1, va1⟩⟩ := notch_coefficients
  obtain ⟨l0, u0⟩ := f32Rat_of_inDisplayRange hr0
  obtain ⟨l1, u1⟩ := f32Rat_of_inDisplayRange hr1
  obtain ⟨l2, u2⟩ := f32Rat_of_inDisplayRange hr2
  rw [abs_le] at h0 h1
  obtain ⟨f1, e1⟩ := f32mul_near fb0 hn0 (by rw [vb0, abs_lt]; constructor <;> linarith)
  obtain ⟨f2, e2⟩ := f32mul_near fb1 hn1 (by rw [vb1, abs_lt]; constructor <;> linarith)
  obtain ⟨f3, e3⟩ := f32mul_near fa0 (finite_of_inDisplayRange hr0) (by rw [va0, abs_lt]; constructor <;> linarith)
  obtain ⟨f4, e4⟩ := f32mul_near fa1 (finite_of_inDisplayRange hr1) (by rw [va1, abs_lt]; constructor <;> linarith)
  obtain ⟨f5, e5⟩ := f32mul_near (a := na2) fa0 (finite_of_inDisplayRange hr2)
    (by rw [show f32Rat na2 = f32Rat na0 from rfl, va0, abs_lt]; constructor <;> linarith)
  rw [show f32Rat na2 = f32Rat na0 from rfl] at e5
  rw [vb0, abs_le] at e1
  rw [vb1, abs_le] at e2
  rw [va0, abs_le] at e3 e5
  rw [va1, abs_le] at e4
  obtain ⟨g1, d1⟩ := f32add_near f1 f2 (by rw [abs_lt]; constructor <;> linarith)
  rw [abs_le] at d1
  obtain ⟨g2, d2⟩ := f32add_near g1 f3 (by rw [abs_lt]; constructor <;> linarith)
  rw [abs_le] at d2
  obtain ⟨g3, d3⟩ := f32add_near g2 f4 (by rw [abs_lt]; constructor <;> linarith)
  rw [abs_le] at d3
  obtain ⟨g4, d4⟩ := f32add_near g3 f5 (by rw [abs_lt]; constructor <;> linarith)
  rw [abs_le] at d4
  refine ⟨g4, ?_⟩
  rw [notchSum, abs_le]
  constructor <;> linarith

/-! ## The energy of two outputs -/

/-- The form of `notchEnergy` on rationals. -/
def notchForm (x y : ℚ) : ℚ := 10000 * x ^ 2 - 15687 * x * y + 9391 * y ^ 2

/-- The bound of `NotchBound` on the form. -/
theorem notchEnergy_le_iff (n0 n1 : F32) :
    notchEnergy n0 n1 ≤ 10000 * (2 ^ 16 * 2 ^ 149) ^ 2 ↔
      notchForm (f32Rat n0) (f32Rat n1) ≤ 10000 * (2 ^ 16) ^ 2 := by
  have hform : (notchEnergy n0 n1 : ℚ) = notchForm (f32Rat n0) (f32Rat n1) * (2 ^ 149) ^ 2 := by
    simp only [notchEnergy, notchForm, f32Rat]
    push_cast
    ring
  have hbound : ((10000 * (2 ^ 16 * 2 ^ 149) ^ 2 : Int) : ℚ) = 10000 * (2 ^ 16) ^ 2 * (2 ^ 149) ^ 2 := by norm_num
  rw [← Int.cast_le (R := ℚ), hform, hbound, mul_le_mul_iff_left₀ (by positivity)]

/-- The form is definite: completing either square bounds the other output. -/
theorem abs_le_of_notchForm_le {x y : ℚ} (h : notchForm x y ≤ 10000 * (2 ^ 16) ^ 2) :
    |x| ≤ 2 ^ 17 ∧ |y| ≤ 2 ^ 17 := by
  rw [notchForm] at h
  have hx := sq_nonneg (2 * 9391 * y - 15687 * x)
  have hy := sq_nonneg (2 * 10000 * x - 15687 * y)
  constructor <;> refine abs_le_of_sq_le_sq ?_ (by norm_num) <;> linarith

/-- One step of the recursion shrinks the form by 0.9391, and an input up to 2000 adds less than that frees: twice the
recursion's value less the middle term is at most 127030. -/
theorem notchForm_step {x y z : ℚ} (h : notchForm x y ≤ 10000 * (2 ^ 16) ^ 2)
    (hz : |z - (15687 / 10000 * x - 9391 / 10000 * y)| ≤ 2000) : notchForm z x ≤ 10000 * (2 ^ 16) ^ 2 := by
  set w := z - (15687 / 10000 * x - 9391 / 10000 * y) with hw
  set d := 15687 / 10000 * x - 2 * (9391 / 10000) * y with hd
  have hd_le : |d| ≤ 127030 := by
    refine abs_le_of_sq_le_sq ?_ (by norm_num)
    have := sq_nonneg x
    rw [notchForm] at h
    rw [hd]
    linarith
  have hw_sq : w ^ 2 ≤ 2000 ^ 2 := sq_le_sq' (abs_le.mp hz).1 (abs_le.mp hz).2
  have hwd : w * d ≤ 2000 * 127030 := by
    calc w * d ≤ |w| * |d| := by rw [← abs_mul]; exact le_abs_self _
      _ ≤ 2000 * 127030 := by gcongr
  have hstep : notchForm z x = 9391 / 10000 * notchForm x y + 10000 * (w * d + w ^ 2) := by
    rw [hw, hd, notchForm, notchForm]
    ring
  rw [hstep]
  linarith

/-! ## The bound as an invariant -/

/-- Whenever NOTCH answers a next state, it read the two latest outputs and the three latest samples. -/
theorem notchOp_reads {s t : State} (h : notchOp s = .next t) (hlen : s.notchHist.length = 2) :
    ∃ n0 n1 r0 r1 r2 older, s.notchHist = [n0, n1] ∧ s.rawHist = r0 :: r1 :: r2 :: older ∧
      t.notchOut = notchSum n0 n1 r0 r1 r2 ∧ t.notchHist = [notchSum n0 n1 r0 r1 r2, n0] := by
  obtain ⟨n0, n1, hn⟩ := List.length_eq_two.mp hlen
  match hr : s.rawHist with
  | r0 :: r1 :: r2 :: older =>
    rw [notchOp_eq hn hr] at h
    cases h
    exact ⟨n0, n1, r0, r1, r2, older, hn, rfl, rfl, rfl⟩
  | [] | [_] | [_, _] => simp [notchOp, hn, hr] at h

theorem notchBound_iff {s : State} {n0 n1 : F32} (h : s.notchHist = [n0, n1]) :
    NotchBound s ↔ f32IsFinite s.notchOut = true ∧ (f32IsFinite n0 = true ∧ f32IsFinite n1 = true)
      ∧ notchForm (f32Rat n0) (f32Rat n1) ≤ 10000 * (2 ^ 16) ^ 2 := by
  simp only [NotchBound, h, List.all_cons, List.all_nil, Bool.and_true, Bool.and_eq_true, ← notchEnergy_le_iff]
  rfl

theorem notchBound_of_zeros {s : State} (hout : s.notchOut = 0) (hhist : s.notchHist = [0, 0]) : NotchBound s := by
  rw [NotchBound, hout, hhist]
  decide

/-- NOTCH over samples of the display range keeps the bound on the outputs. -/
theorem notchOp_notchBound {s t : State} (h : notchOp s = .next t) (hs : DataInv s) (hbound : NotchBound s) :
    NotchBound t := by
  obtain ⟨-, ⟨-, hlen⟩, hranges⟩ := hs
  obtain ⟨n0, n1, r0, r1, r2, older, hn, hr, hout, hhist⟩ := notchOp_reads h hlen
  obtain ⟨-, ⟨hfin0, hfin1⟩, hform⟩ := (notchBound_iff hn).mp hbound
  obtain ⟨h0, h1⟩ := abs_le_of_notchForm_le hform
  have hsample : ∀ r ∈ [r0, r1, r2], InDisplayRange r := fun r hmem =>
    mem_rawHist_inDisplayRange hranges r (by rw [hr]; simp at hmem ⊢; tauto)
  obtain ⟨hfin, hnear⟩ := notchSum_near hfin0 hfin1 h0 h1 (hsample r0 (by simp)) (hsample r1 (by simp))
    (hsample r2 (by simp))
  exact (notchBound_iff hhist).mpr ⟨by rw [hout]; exact hfin, ⟨hfin, hfin0⟩, notchForm_step hform hnear⟩

theorem DataMove.notchBound {s t : State} (h : DataMove s t) (hs : DataInv s) (hbound : NotchBound s) :
    NotchBound t := by
  cases h with
  | keep h => simpa only [NotchBound, h.notchOut, h.notchHist] using hbound
  | reset => exact notchBound_of_zeros rfl rfl
  | notch h => exact notchOp_notchBound h hs hbound
  | fir h =>
    obtain ⟨-, rfl⟩ := firOp_eq_next.mp h
    exact hbound
  | sample | convert | ewma | hpush | clear => exact hbound

theorem StepMoves.notchBound {s t : State} (h : StepMoves s t) (hs : Inv s) (hbound : NotchBound s) :
    NotchBound t :=
  (h.dataMoves.keep (P := fun u => DataInv u ∧ NotchBound u)
    (fun h ⟨hs, hbound⟩ => ⟨h.dataInv hs, h.notchBound hs hbound⟩) ⟨(inv_iff.mp hs).1, hbound⟩).2

/-- Values in their ranges and bounded notch outputs are finite. -/
theorem registersFinite_of_inv {s : State} (hs : Inv s) (hbound : NotchBound s) : RegistersFinite s := by
  obtain ⟨⟨-, -, hranges⟩, -⟩ := inv_iff.mp hs
  have hraw := mem_rawHist_inDisplayRange hranges
  obtain ⟨hlux, hsmoothed, -, -, -, hfir⟩ := hranges
  obtain ⟨hout, hhist, -⟩ := hbound
  exact ⟨finite_of_inDisplayRange hlux, finite_of_inDisplayRange hsmoothed, hout, hfir,
    List.all_eq_true.mpr fun x hx => finite_of_inDisplayRange (hraw x hx), hhist⟩

end Sys2Proof.Machine
end

section
/-! SUPPORT. The statement about NaN and infinities (10_state.md R37). -/

namespace Sys2Proof.Proofs

open Sys2Proof.Machine Sys2Proof.Safety

/-- Settles O53: the notch's energy stays bounded, and every other register is in its range. -/
theorem noStepWritesNaNOrInfinity : Obligations.NoStepWritesNaNOrInfinity := by
  unfold Obligations.NoStepWritesNaNOrInfinity
  refine ⟨fun c _ => notchBound_of_zeros rfl rfl, fun s t hs hbound h => ?_⟩
  obtain ⟨-, hmoves⟩ := step_next h
  have hbound' := hmoves.notchBound hs hbound
  exact ⟨hbound', registersFinite_of_inv (hmoves.inv hs) hbound'⟩

end Sys2Proof.Proofs
end

section
/-! SUPPORT. The bytes on the wire followed by the queue: EMIT moves one across, a transmit adds a frame at the end, and
no other operation than RESET touches them (20_memory.md R54, 43_framer_crc.md R186 to R188). -/

namespace Sys2Proof.Machine

open Sys2Proof.Safety

/-- The bytes sent so far, then those still queued: the byte stream in wire order. -/
def byteStream (s : State) : List Byte := wireBytes s.events ++ s.txq

@[simp] theorem wireBytes_append (es es' : List Event) : wireBytes (es ++ es') = wireBytes es ++ wireBytes es' :=
  List.filterMap_append

@[simp] theorem wireBytes_wire (b : Byte) : wireBytes [.wire b] = [b] := rfl
@[simp] theorem wireBytes_adcRead (code : Nat) : wireBytes [.adcRead code] = [] := rfl
@[simp] theorem wireBytes_diag (r : DiagRecord) : wireBytes [.diag r] = [] := rfl

theorem byteStream_sampleOp (s : State) : byteStream (sampleOp s) = byteStream s := by
  simp [byteStream, sampleOp_eq]

theorem byteStream_diagOp (s : State) : byteStream (diagOp s) = byteStream s := by
  simp [byteStream, diagOp]

theorem byteStream_xmitOp (s : State) : byteStream (xmitOp s) = byteStream s ++ frameOf s := by
  simp [byteStream, xmitOp_eq]

theorem byteStream_tickOp {s t : State} (h : tickOp s = .next t) : byteStream t = byteStream s := by
  obtain ⟨out, rfl⟩ := tickOp_next h
  simp [byteStream]

theorem byteStream_pollSample {now : Millis} {s t : State} (h : pollSample now s = .next t) :
    byteStream t = byteStream s := by
  obtain ⟨-, rfl⟩ | ⟨-, u, hu, rfl⟩ := pollSample_next h
  · rfl
  · exact (byteStream_tickOp hu : byteStream u = _)

/-- EMIT moves the head of the queue to the end of the wire. -/
theorem byteStream_execEmit {s t : State} (h : execEmit s = .next t) : byteStream t = byteStream s := by
  obtain rfl | ⟨b, rest, hq, -, rfl⟩ := execEmit_next h
  · rfl
  · simp [byteStream, hq]

/-- From `s` to `t` the byte stream grew at its end alone, by nothing or, where `i` transmits, by one whole frame. -/
def StreamGrows (i : Instr) (s t : State) : Prop :=
  ∃ frame : List Byte, byteStream t = byteStream s ++ frame
    ∧ (frame = [] ∨ (frame.length = frameLen s.cfg.frameMode ∧ (i = .poll ∨ i = .xmit)))

theorem StreamGrows.of_eq {i : Instr} {s t : State} (h : byteStream t = byteStream s) : StreamGrows i s t :=
  ⟨[], by simpa using h, .inl rfl⟩

/-- A transmit out of `u`, whose byte stream and configuration are still those of `s`. -/
theorem StreamGrows.of_xmitOp {i : Instr} {s u : State} (hu : byteStream u = byteStream s) (hcfg : u.cfg = s.cfg)
    (hi : i = .poll ∨ i = .xmit) : StreamGrows i s (xmitOp u) :=
  ⟨frameOf u, by rw [byteStream_xmitOp, hu], .inr ⟨by rw [frameOf_length, hcfg], hi⟩⟩

/-- A POLL's `now` is no part of the byte stream. -/
theorem StreamGrows.clearNow {i : Instr} {s t : State} (h : StreamGrows i s t) : StreamGrows i s (clearNow t) := h

/-- A gated part that keeps the byte stream. -/
theorem StreamGrows.of_whenFree {i : Instr} {s t : State} {r : Result} (h : whenFree s r = .next t)
    (hr : r = .next t → StreamGrows i s t) : StreamGrows i s t := by
  obtain ⟨-, rfl⟩ | ⟨-, h⟩ := whenFree_eq_next.mp h
  · exact .of_eq rfl
  · exact hr h

/-- A gated part with one outcome, which keeps the byte stream. -/
theorem StreamGrows.of_whenFree_next {i : Instr} {s t u : State} (h : whenFree s (.next u) = .next t)
    (hu : byteStream u = byteStream s) : StreamGrows i s t :=
  .of_whenFree h fun h => by
    cases h
    exact .of_eq hu

/-- A part with a conversion, or MAIN stuck. -/
theorem StreamGrows.of_withConversion {i : Instr} {s t : State} {r : Result} (h : withConversion s r = .next t)
    (hr : r = .next t → StreamGrows i s t) : StreamGrows i s t := by
  obtain ⟨-, rfl⟩ | ⟨-, h⟩ := withConversion_eq_next.mp h
  · exact .of_eq rfl
  · exact hr h

/-- The tick of a POLL leaves the byte stream to its transmit. -/
theorem execPoll_streamGrows {s t : State} (h : execPoll s = .next t) : StreamGrows .poll s t := by
  obtain ⟨-, rfl⟩ | ⟨-, -, -, rfl⟩ | ⟨-, -, u, hu, rfl⟩ := execPoll_next h
  · exact .of_eq rfl
  · exact .of_eq rfl
  · have hstream : byteStream u = byteStream s := (byteStream_pollSample hu).trans rfl
    have hcfg : u.cfg = s.cfg := (pollSample_sameControl hu).1.cfg
    refine StreamGrows.clearNow ?_
    rw [pollTransmit]
    split
    · exact .of_xmitOp hstream hcfg (.inl rfl)
    · exact .of_eq hstream

/-- Whenever an operation other than RESET answers a next state, the byte stream grew as `StreamGrows` says. -/
theorem exec_streamGrows {i : Instr} {s t : State} (hi : i ≠ .reset) (h : exec i s = .next t) :
    StreamGrows i s t := by
  cases i with
  | reset => exact absurd rfl hi
  | time => cases h; exact .of_eq rfl
  | start =>
    simp only [exec, execStart] at h
    split at h <;> cases h <;> exact .of_eq rfl
  | trig =>
    simp only [exec, execTrig] at h
    split at h <;> cases h <;> exact .of_eq rfl
  | emit => exact .of_eq (byteStream_execEmit h)
  | poll => exact execPoll_streamGrows h
  | xmit =>
    refine .of_whenFree h fun h => ?_
    split at h <;> cases h
    · exact .of_xmitOp rfl rfl (.inr rfl)
    · exact .of_eq rfl
  | tick => exact .of_whenFree h fun h => .of_withConversion h fun h => .of_eq (byteStream_tickOp h)
  | sample =>
    refine .of_whenFree h fun h => .of_withConversion h fun h => ?_
    cases h
    exact .of_eq (byteStream_sampleOp s)
  | notch =>
    refine .of_whenFree h fun h => ?_
    obtain ⟨out, rfl⟩ := notchOp_next h
    exact .of_eq rfl
  | fir =>
    refine .of_whenFree h fun h => ?_
    obtain ⟨-, rfl⟩ := firOp_eq_next.mp h
    exact .of_eq rfl
  | diag => exact .of_whenFree_next h (byteStream_diagOp s)
  | convert | ewma | hpush | value | crc8 | packBin | packTxt => exact .of_whenFree_next h rfl

end Sys2Proof.Machine
end

section
/-! SUPPORT. The statement about the order of the bytes (20_memory.md R54). -/

namespace Sys2Proof.Proofs

open Sys2Proof.Machine Sys2Proof.Safety

/-- Settles O59: an operation's outcomes one by one; EMIT moves the head of the queue to the wire, and only a transmit
adds bytes, its frame as a whole. -/
theorem queueKeepsWireOrder : Obligations.QueueKeepsWireOrder := by
  unfold Obligations.QueueKeepsWireOrder
  intro i s t hi h
  exact exec_streamGrows hi h

end Sys2Proof.Proofs
end

section
/-! SUPPORT. Labels, the fields of a stimulus word, and its decoder read backwards: which words are accepted, and as
which lines (30_encoding.md R70 to R72, R88). -/

namespace Sys2Proof

open Laws Safety

/-! ## Labels -/

/-- The table gives every operation one label, and the decoder reads an operation from its label alone. -/
theorem decodeLabel_eq_ok_iff {op : BitVec 5} {i : Instr} : decodeLabel op = .ok i ↔ op = encodeLabel i := by
  cases i with
  | reset => exact LabelClasses.reset.2 op
  | start => exact LabelClasses.start.2 op
  | poll => exact LabelClasses.poll.2 op
  | trig => exact LabelClasses.trig.2 op
  | emit => exact LabelClasses.emit.2 op
  | time => exact LabelClasses.time.2 op
  | tick => exact LabelClasses.tick.2 op
  | sample => exact LabelClasses.sample.2 op
  | convert => exact LabelClasses.convert.2 op
  | ewma => exact LabelClasses.ewma.2 op
  | hpush => exact LabelClasses.hpush.2 op
  | notch => exact LabelClasses.notch.2 op
  | fir => exact LabelClasses.fir.2 op
  | xmit => exact LabelClasses.xmit.2 op
  | value => exact LabelClasses.value.2 op
  | crc8 => exact LabelClasses.crc8.2 op
  | packBin => exact LabelClasses.packBin.2 op
  | packTxt => exact LabelClasses.packTxt.2 op
  | diag => exact LabelClasses.diag.2 op

@[simp] theorem decodeLabel_encodeLabel (i : Instr) : decodeLabel (encodeLabel i) = .ok i :=
  decodeLabel_eq_ok_iff.mpr rfl

/-- The labels 30_encoding.md R72 reserves. -/
abbrev ReservedLabel (op : BitVec 5) : Prop :=
  op = 0x06 ∨ op = 0x07 ∨ op = 0x0F ∨ op = 0x16 ∨ op = 0x17 ∨ 0x18 ≤ op.toNat

/-- A label that is no operation's is refused under one name only. -/
theorem decodeLabel_error {op : BitVec 5} {e : DecodeError} (h : decodeLabel op = .error e) : e = .reservedLabel := by
  unfold decodeLabel at h
  split at h <;> cases h
  rfl

/-- The labels left over by the table, over all 32. -/
theorem decodeLabel_reserved_iff : ∀ op : BitVec 5, decodeLabel op = .error .reservedLabel ↔ ReservedLabel op := by
  decide

/-- Every label that is not reserved is the label of an operation. -/
theorem exists_decodeLabel_ok {op : BitVec 5} (h : ¬ ReservedLabel op) : ∃ i, decodeLabel op = .ok i := by
  cases hd : decodeLabel op with
  | ok i => exact ⟨i, rfl⟩
  | error e =>
    obtain rfl := decodeLabel_error hd
    exact absurd ((decodeLabel_reserved_iff op).mp hd) h

/-! ## The fields of a word -/

@[simp] theorem wordLabel_stimulusWord (label : BitVec 5) (arg : BitVec 11) (field : Millis) :
    wordLabel (stimulusWord label arg field) = label :=
  (BitVec.extractLsb'_append_eq_of_le (by decide)).trans BitVec.extractLsb'_append_eq_left

@[simp] theorem wordArg_stimulusWord (label : BitVec 5) (arg : BitVec 11) (field : Millis) :
    wordArg (stimulusWord label arg field) = arg :=
  (BitVec.extractLsb'_append_eq_of_le (by decide)).trans BitVec.extractLsb'_append_eq_right

@[simp] theorem wordTime_stimulusWord (label : BitVec 5) (arg : BitVec 11) (field : Millis) :
    wordTime (stimulusWord label arg field) = field :=
  BitVec.extractLsb'_append_eq_right

/-- The three fields are the whole word. -/
theorem stimulusWord_fields (w : BitVec 48) : stimulusWord (wordLabel w) (wordArg w) (wordTime w) = w := by
  rw [stimulusWord, wordLabel, wordArg, wordTime,
    BitVec.extractLsb'_append_extractLsb'_eq_extractLsb' (start₁ := 32) (len₁ := 11) rfl,
    BitVec.extractLsb'_append_extractLsb'_eq_extractLsb' (start₁ := 0) (len₁ := 32) rfl]
  exact BitVec.extractLsb'_eq_self

/-! ## The time of a word -/

/-- A time less than 2^32 after the previous one is recovered from its residue. -/
theorem recoverTime_ofNat {prev t : Nat} (hle : prev ≤ t) (hlt : t < prev + 2 ^ 32) :
    recoverTime prev (BitVec.ofNat 32 t) = t := by
  simp only [recoverTime, BitVec.toNat_sub, BitVec.toNat_ofNat]
  omega

/-- The residue of a recovered time is the field. -/
@[simp] theorem ofNat_recoverTime (prev : Nat) (field : Millis) :
    BitVec.ofNat 32 (recoverTime prev field) = field := by
  apply BitVec.eq_of_toNat_eq
  simp only [recoverTime, BitVec.toNat_sub, BitVec.toNat_ofNat]
  omega

/-! ## One word -/

/-- The words the decoder accepts after the time `prev`, and the line each stands for: one row per kind of stimulus, the
fields the line does not have 0 (30_encoding.md R88, log entry 14). -/
inductive WordLine (prev : Nat) : BitVec 48 → Line → Prop
  | reset : WordLine prev (stimulusWord (encodeLabel .reset) 0 0) .reset
  | start (field : Millis) :
    WordLine prev (stimulusWord (encodeLabel .start) 0 field) (.start (recoverTime prev field))
  | poll {arg : BitVec 11} (field : Millis) (h : arg.toNat ≤ 1023) :
    WordLine prev (stimulusWord (encodeLabel .poll) arg field) (.poll (recoverTime prev field) (some arg.toNat))
  | trig (field : Millis) :
    WordLine prev (stimulusWord (encodeLabel .trig) 0 field) (.trig (recoverTime prev field))
  | emit (arg : BitVec 11) : WordLine prev (stimulusWord (encodeLabel .emit) arg 0) (.emit arg.toNat)

/-- A check before a line is accepted. -/
theorem accept_eq_ok_iff {p : Prop} [Decidable p] {e : DecodeError} {l l' : Line} :
    (if p then .ok l else .error e : Except DecodeError Line) = .ok l' ↔ p ∧ l = l' := by
  split <;> simp_all

/-- The decoder accepts exactly these words, as these lines. -/
theorem decodeWord_eq_ok_iff {prev : Nat} {w : BitVec 48} {l : Line} :
    decodeWord prev w = .ok l ↔ WordLine prev w l := by
  constructor
  · rw [← stimulusWord_fields w]
    generalize wordLabel w = label, wordArg w = arg, wordTime w = field
    intro h
    cases hlabel : decodeLabel label with
    | error e => simp [decodeWord, hlabel] at h
    | ok i =>
      obtain rfl := decodeLabel_eq_ok_iff.mp hlabel
      simp only [decodeWord, wordLabel_stimulusWord, wordArg_stimulusWord, wordTime_stimulusWord,
        decodeLabel_encodeLabel] at h
      cases i with
      | reset =>
        obtain ⟨⟨rfl, rfl⟩, rfl⟩ := accept_eq_ok_iff.mp h
        exact .reset
      | start =>
        obtain ⟨rfl, rfl⟩ := accept_eq_ok_iff.mp h
        exact .start field
      | poll =>
        obtain ⟨hcode, rfl⟩ := accept_eq_ok_iff.mp h
        exact .poll field hcode
      | trig =>
        obtain ⟨rfl, rfl⟩ := accept_eq_ok_iff.mp h
        exact .trig field
      | emit =>
        obtain ⟨rfl, rfl⟩ := accept_eq_ok_iff.mp h
        exact .emit arg
      | time | tick | sample | convert | ewma | hpush | notch | fir | xmit | value | crc8 | packBin | packTxt | diag =>
        cases h
  · intro h
    cases h with
    | poll field hcode => simp [decodeWord, hcode]
    | reset | start | trig | emit => simp [decodeWord]

/-- The word of a poll with a code that fits the port, at a time that can be recovered, is that poll. -/
theorem decodeWord_pollWord {prev t c : Nat} (hle : prev ≤ t) (hlt : t < prev + 2 ^ 32) (hcode : c ≤ 1023) :
    decodeWord prev (pollWord t (some c)) = .ok (.poll t (some c)) := by
  have harg : (codeField (some c)).toNat = c := Nat.mod_eq_of_lt (show c < 2 ^ 11 by omega)
  have h := WordLine.poll (prev := prev) (arg := codeField (some c)) (BitVec.ofNat 32 t) (by omega)
  rw [recoverTime_ofNat hle hlt, harg] at h
  exact decodeWord_eq_ok_iff.mpr h

/-! ## The words of a scenario -/

theorem decodeWords_cons {prev : Nat} {w : BitVec 48} {ws : List (BitVec 48)} {l : Line} {lines : List Line}
    (hw : decodeWord prev w = .ok l) (hrest : decodeWords (l.timeAfter prev) ws = .ok lines) :
    decodeWords prev (w :: ws) = .ok (l :: lines) := by
  simp only [decodeWords, hw, hrest]

/-- The words of a range are its polls, one per time; the next word's time is recovered from the last of them. -/
theorem decodeWords_polls {t c : Nat} (hcode : c ≤ 1023) {ws : List (BitVec 48)} {lines : List Line} (n : Nat)
    {prev : Nat} (hle : prev ≤ t) (hlt : t < prev + 2 ^ 32) (hrest : decodeWords (t + n) ws = .ok lines) :
    decodeWords prev ((List.range' t (n + 1)).map (fun u => pollWord u (some c)) ++ ws)
      = .ok ((List.range' t (n + 1)).map (fun u => .poll u (some c)) ++ lines) := by
  induction n generalizing t prev with
  | zero => exact decodeWords_cons (decodeWord_pollWord hle hlt hcode) hrest
  | succ n ih =>
    refine decodeWords_cons (decodeWord_pollWord hle hlt hcode) (ih (Nat.le_succ t) ?_ ?_)
    · show t + 1 < t + 2 ^ 32
      omega
    · rwa [Nat.add_right_comm, Nat.add_assoc]

/-- The words of one line that can be encoded are read back as the line, the words after it from the line's time. -/
theorem decodeWords_encodeLine {prev : Nat} {l : Line} {later : List Line} (h : encodableFrom prev (l :: later))
    {ws : List (BitVec 48)} {lines : List Line} (hws : decodeWords (l.timeAfter prev) ws = .ok lines) :
    decodeWords prev (encodeLine l ++ ws) = .ok (l.expand ++ lines) := by
  obtain ⟨hwf, -, htime⟩ := h
  cases l with
  | reset => exact decodeWords_cons (decodeWord_eq_ok_iff.mpr .reset) hws
  | start t =>
    obtain ⟨hle, hlt⟩ := htime
    have hw := WordLine.start (prev := prev) (BitVec.ofNat 32 t)
    rw [recoverTime_ofNat hle hlt] at hw
    exact decodeWords_cons (decodeWord_eq_ok_iff.mpr hw) hws
  | trig t =>
    obtain ⟨hle, hlt⟩ := htime
    have hw := WordLine.trig (prev := prev) (BitVec.ofNat 32 t)
    rw [recoverTime_ofNat hle hlt] at hw
    exact decodeWords_cons (decodeWord_eq_ok_iff.mpr hw) hws
  | poll t code =>
    obtain ⟨hle, hlt, hsome⟩ := htime
    obtain ⟨c, rfl⟩ := Option.isSome_iff_exists.mp hsome
    exact decodeWords_cons (decodeWord_pollWord hle hlt (of_decide_eq_true hwf)) hws
  | pollRange t1 t2 code =>
    obtain ⟨hle, hlt, hsome⟩ := htime
    obtain ⟨c, rfl⟩ := Option.isSome_iff_exists.mp hsome
    obtain ⟨hrange, hcode⟩ : t1 ≤ t2 ∧ c ≤ 1023 := by simpa [Line.wellFormed, codeFits] using hwf
    obtain ⟨n, rfl⟩ := Nat.exists_eq_add_of_le hrange
    have hcount : t1 + n + 1 - t1 = n + 1 := by omega
    rw [encodeLine, Line.expand, hcount]
    exact decodeWords_polls hcode n hle hlt hws
  | emit n =>
    have hw := WordLine.emit (prev := prev) (BitVec.ofNat 11 n)
    have hn : n < 2 ^ 11 := Nat.lt_succ_of_le (of_decide_eq_true hwf)
    rw [BitVec.toNat_ofNat, Nat.mod_eq_of_lt hn] at hw
    exact decodeWords_cons (decodeWord_eq_ok_iff.mpr hw) hws

/-- The words of a scenario that can be encoded are read back as its lines, ranges expanded. -/
theorem decodeWords_flatMap_encodeLine {prev : Nat} {lines : List Line} (h : encodableFrom prev lines) :
    decodeWords prev (lines.flatMap encodeLine) = .ok (lines.flatMap Line.expand) := by
  induction lines generalizing prev with
  | nil => rfl
  | cons l later ih =>
    have ⟨_, hlater, _⟩ := h
    exact decodeWords_encodeLine h (ih hlater)

/-- The line a word stands for is well formed, and its encoding is the word. -/
theorem WordLine.encodes {prev : Nat} {w : BitVec 48} {l : Line} (h : WordLine prev w l) :
    l.wellFormed = true ∧ encodeLine l = [w] := by
  cases h with
  | reset => exact ⟨rfl, rfl⟩
  | start field | trig field => exact ⟨rfl, by simp [encodeLine]⟩
  | poll field hcode => exact ⟨decide_eq_true hcode, by simp [encodeLine, pollWord, codeField]⟩
  | emit arg => exact ⟨decide_eq_true (Nat.le_of_lt_succ arg.isLt), by simp [encodeLine]⟩

/-! ## Words that are refused -/

/-- A word is refused with its label. -/
theorem decodeWord_of_label_error {prev : Nat} {w : BitVec 48} {e : DecodeError}
    (h : decodeLabel (wordLabel w) = .error e) : decodeWord prev w = .error e := by
  simp only [decodeWord, h]

/-- The five stimuli have the labels below 0x05; every other operation's label is no stimulus. -/
theorem decodeWord_of_no_stimulus {prev : Nat} {w : BitVec 48} {i : Instr} (h : decodeLabel (wordLabel w) = .ok i)
    (hi : 5 ≤ (wordLabel w).toNat) : decodeWord prev w = .error .badStimulus := by
  rw [decodeLabel_eq_ok_iff.mp h] at hi
  cases i with
  | reset | start | poll | trig | emit => exact absurd hi (by decide)
  | time | tick | sample | convert | ewma | hpush | notch | fir | xmit | value | crc8 | packBin | packTxt | diag =>
    simp only [decodeWord, h]

/-- A poll's argument is a code of the 10-bit port. -/
theorem decodeWord_of_large_code {prev : Nat} {w : BitVec 48} (h : decodeLabel (wordLabel w) = .ok .poll)
    (hcode : 1023 < (wordArg w).toNat) : decodeWord prev w = .error .badStimulus := by
  simp only [decodeWord, h, if_neg (Nat.not_le.mpr hcode)]

/-- The words 30_encoding.md R88 refuses as `bad_stimulus`, by label and argument. -/
theorem decodeWord_of_bad_stimulus {prev : Nat} {w : BitVec 48}
    (h : wordLabel w = 0x05 ∨ (0x08 ≤ (wordLabel w).toNat ∧ (wordLabel w).toNat ≤ 0x15 ∧ wordLabel w ≠ 0x0F)
      ∨ (wordLabel w = 0x02 ∧ 1023 < (wordArg w).toNat)) :
    decodeWord prev w = .error .badStimulus := by
  rcases h with htime | ⟨hge, hle, hne⟩ | ⟨hpoll, hcode⟩
  · exact decodeWord_of_no_stimulus (decodeLabel_eq_ok_iff (i := .time) |>.mpr htime) (by simp [htime])
  · obtain ⟨i, hi⟩ := exists_decodeLabel_ok (op := wordLabel w) (by simp only [ReservedLabel]; bv_omega)
    exact decodeWord_of_no_stimulus hi (by omega)
  · exact decodeWord_of_large_code (decodeLabel_eq_ok_iff.mpr hpoll) hcode

end Sys2Proof
end

section
/-! SUPPORT. What a step does with its next input: one rule per kind of input, and per branch of what a line does
(30_encoding.md R71, R86 to R88). -/

namespace Sys2Proof.Machine

/-- With a well-formed configuration the next input leaves the list and is applied. -/
theorem step_of_input {s : State} {x : Input} {rest : List Input} (hcfg : configError s.cfg = none)
    (hin : s.inputs = x :: rest) : step s = applyInput x { s with inputs := rest } := by
  simp only [step, hcfg, runNext, hin]

/-! ## Labels and words -/

section
variable {s : State} {rest : List Input} (hcfg : configError s.cfg = none)
include hcfg

theorem step_of_op {label : BitVec 5} {i : Instr} (hin : s.inputs = .op label :: rest)
    (h : decodeLabel label = .ok i) : step s = applyOp i { s with inputs := rest } := by
  simp only [step_of_input hcfg hin, applyInput, h]

theorem step_of_op_error {label : BitVec 5} {e : DecodeError} (hin : s.inputs = .op label :: rest)
    (h : decodeLabel label = .error e) : step s = .refused (refusalOf e) := by
  simp only [step_of_input hcfg hin, applyInput, h]

theorem step_of_word {w : BitVec 48} {l : Line} (hin : s.inputs = .word w :: rest) (h : decodeWord s.time w = .ok l) :
    step s = applyLine l { s with inputs := rest } := by
  simp only [step_of_input hcfg hin, applyInput, h]

theorem step_of_word_error {w : BitVec 48} {e : DecodeError} (hin : s.inputs = .word w :: rest)
    (h : decodeWord s.time w = .error e) : step s = .refused (refusalOf e) := by
  simp only [step_of_input hcfg hin, applyInput, h]

theorem step_of_line {l : Line} (hin : s.inputs = .line l :: rest) : step s = applyLine l { s with inputs := rest } :=
  step_of_input hcfg hin

/-- A line with a time not before T first moves T there. -/
theorem step_of_timed_line {l : Line} {t : Nat} {f : State → Result} (hin : s.inputs = .line l :: rest)
    (hl : ∀ u, applyLine l u = atTime t u f) (hle : s.time ≤ t) :
    step s = f { s with inputs := rest, time := t, holding := held s } := by
  rw [step_of_line hcfg hin, hl]
  exact if_neg (Nat.not_lt.mpr hle)

theorem step_of_late_line {l : Line} {t : Nat} {f : State → Result} (hin : s.inputs = .line l :: rest)
    (hl : ∀ u, applyLine l u = atTime t u f) (hlt : t < s.time) : step s = .refused .timeDecreases := by
  rw [step_of_line hcfg hin, hl]
  exact if_pos hlt

theorem step_of_level {p : Ports} (hin : s.inputs = .level p :: rest) :
    step s = .next { setLevels s p with inputs := rest } := by
  rw [step_of_input hcfg hin, applyInput]
  cases hrst : p.rst with
  | false => rw [setLevels_of_not_rst hrst, setLevels_of_not_rst hrst]; rfl
  | true => rw [setLevels_of_rst hrst, setLevels_of_rst hrst]; rfl

end

theorem applyOp_agentStep {i : Instr} (h : i.labelClass = .agentStep) (s : State) : applyOp i s = exec i s := by
  simp only [applyOp, h]

/-- A sub-operation is performed where its composite has come to it. -/
theorem applyOp_sub_due {s : State} {i : Instr} (h : i.labelClass ≠ .agentStep) (hpart : s.part = some i) :
    applyOp i s = exec i { s with part := none } := by
  cases hc : i.labelClass with
  | agentStep => exact absurd hc h
  | tickDatapath | transmitDatapath => simp only [applyOp, hc, if_pos hpart]

theorem applyOp_sub_outside {s : State} {i : Instr} (h : i.labelClass ≠ .agentStep) (hpart : s.part ≠ some i) :
    applyOp i s = .refused .outsideComposite := by
  cases hc : i.labelClass with
  | agentStep => exact absurd hc h
  | tickDatapath | transmitDatapath => simp only [applyOp, hc, if_neg hpart]

theorem partFor_agentStep {s : State} {label : BitVec 5} {i : Instr} (h : decodeLabel label = .ok i)
    (hi : i.labelClass = .agentStep) : partFor s label = s.part := by
  simp only [partFor, h, hi]

theorem partFor_sub {s : State} {label : BitVec 5} {i : Instr} (h : decodeLabel label = .ok i)
    (hi : i.labelClass ≠ .agentStep) : partFor s label = some i := by
  cases hc : i.labelClass with
  | agentStep => exact absurd hc hi
  | tickDatapath | transmitDatapath => simp only [partFor, h, hc]

/-- A label pushed in front at the point where it is due is performed on the state itself. -/
theorem step_pushLabel {s : State} {label : BitVec 5} {i : Instr} (hcfg : configError s.cfg = none)
    (hpart : s.part = none) (h : decodeLabel label = .ok i) : step (pushLabel s label) = exec i s := by
  rw [step_of_op (s := pushLabel s label) hcfg rfl h]
  by_cases hi : i.labelClass = .agentStep
  · rw [applyOp_agentStep hi]
    simp only [pushLabel, partFor_agentStep h hi]
  · rw [applyOp_sub_due hi]
    · simp only [pushLabel, ← hpart]
    · exact partFor_sub h hi

theorem decodeTableWord_eq_some {nbits w : Nat} {i : Instr} (h : decodeTableWord nbits w = some i) :
    decodeLabel (BitVec.ofNat 5 w) = .ok i := by
  unfold decodeTableWord at h
  split at h
  · next hd => rw [hd, Option.some.inj h]
  · cases h

/-! ## Lines -/

theorem pollAt_of_not_enabled {s : State} (h : pollEnabled s = false) (code : Option Nat) :
    pollAt s code = .refused .pollNotEnabled := by
  simp [pollAt, h]

theorem pollAt_none {s : State} (h : pollEnabled s = true) :
    pollAt s none = if sampleDue s (nowOf s) then .refused .missingCode else exec .poll s := by
  simp [pollAt, h, exec]

theorem pollAt_some {s : State} (h : pollEnabled s = true) (c : Nat) :
    pollAt s (some c) = exec .poll (offerCode s c) := by
  simp [pollAt, h, exec]

theorem applyLine_poll (t : Nat) (code : Option Nat) (s : State) :
    applyLine (.poll t code) s = atTime t s fun u => pollAt u code := rfl

theorem applyLine_start (t : Nat) (s : State) :
    applyLine (.start t) s = atTime t s fun u => exec .start (raiseDiagReady u) := rfl

theorem applyLine_trig (t : Nat) (s : State) :
    applyLine (.trig t) s = atTime t s fun u => exec .trig (risingEdge u) := rfl

theorem applyLine_pollRange_empty {t1 t2 : Nat} (h : t2 < t1) (code : Option Nat) (s : State) :
    applyLine (.pollRange t1 t2 code) s = .next s := if_pos h

theorem applyLine_pollRange_single (t : Nat) (code : Option Nat) (s : State) :
    applyLine (.pollRange t t code) s = applyLine (.poll t code) s := by
  simp [applyLine]

/-- A longer range is its first poll, with the rest of the range as the next input. -/
theorem applyLine_pollRange_first {t1 t2 : Nat} (h : t1 < t2) (code : Option Nat) (s : State) :
    applyLine (.pollRange t1 t2 code) s = applyLine (.poll t1 code) (thenLine s (.pollRange (t1 + 1) t2 code)) := by
  simp only [applyLine, if_neg (Nat.not_lt.mpr h.le), if_neg h.ne]
  rfl

theorem applyLine_emit_empty {s : State} {n : Nat} (h : s.txq.length < n) :
    applyLine (.emit n) s = .refused .emitEmpty := by
  cases n with
  | zero => exact absurd h (Nat.not_lt_zero _)
  | succ n => exact if_pos h

theorem applyLine_emit_first {s : State} {n : Nat} (h : n + 1 ≤ s.txq.length) :
    applyLine (.emit (n + 1)) s = exec .emit (raiseTxReady (if n = 0 then s else thenLine s (.emit n))) :=
  if_neg (Nat.not_lt.mpr h)

/-! ## Levels -/

/-- One rising edge as one update of the state: it is remembered in RUN, in IRQ mode and out of reset. -/
theorem risingEdge_eq (s : State) :
    risingEdge s =
      { s with
        ports := { s.ports with trigIn := true }
        edge := s.edge || (s.fsm == .run && s.cfg.txMode == .irq && !s.ports.rst) } := by
  simp [risingEdge, edgeAfter]

theorem edgeAfter_of_rise {s : State} (hlow : s.ports.trigIn = false) (hrun : s.fsm = .run)
    (hirq : s.cfg.txMode = .irq) (hrst : s.ports.rst = false) : edgeAfter s true = true := by
  simp [edgeAfter, hlow, hrun, hirq, hrst]

/-- Without a transition, outside RUN and IRQ mode and in reset the detector stays. -/
theorem edgeAfter_of_no_rise {s : State} {new : Bool}
    (h : s.ports.trigIn = true ∨ new = false ∨ s.fsm = .init ∨ s.cfg.txMode = .timer ∨ s.ports.rst = true) :
    edgeAfter s new = s.edge := by
  rcases h with h | h | h | h | h <;> simp [edgeAfter, h]

end Sys2Proof.Machine
end

section
/-! SUPPORT. TICK, XMIT and PACK_BIN as their sub-operations (30_encoding.md R73). -/

namespace Sys2Proof.Machine

open Safety

/-- A second part matters only on the states the first part answers. -/
theorem andThen_congr {r : Result} {f g : State → Result} (h : ∀ t, r = .next t → f t = g t) :
    andThen r f = andThen r g := by
  cases r with
  | next t => exact h t rfl
  | fault | refused => rfl

/-- An operation that leaves `rst` and the stuck mark leaves MAIN free. -/
theorem mainFree_congr {s t : State} (hrst : t.ports.rst = s.ports.rst) (hstuck : t.stuck = s.stuck) :
    mainFree t = mainFree s := by
  rw [mainFree, mainFree, hrst, hstuck]

@[simp] theorem mainFree_sampleOp (s : State) : mainFree (sampleOp s) = mainFree s := mainFree_congr rfl rfl

@[simp] theorem mainFree_convertOp (s : State) : mainFree (convertOp s) = mainFree s := mainFree_congr rfl rfl

@[simp] theorem mainFree_ewmaOp (s : State) : mainFree (ewmaOp s) = mainFree s := mainFree_congr rfl rfl

@[simp] theorem mainFree_hpushOp (s : State) : mainFree (hpushOp s) = mainFree s := mainFree_congr rfl rfl

@[simp] theorem mainFree_diagOp (s : State) : mainFree (diagOp s) = mainFree s := mainFree_congr rfl rfl

@[simp] theorem mainFree_valueOp (s : State) : mainFree (valueOp s) = mainFree s := mainFree_congr rfl rfl

theorem mainFree_of_notchOp {s t : State} (h : notchOp s = .next t) : mainFree t = mainFree s := by
  obtain ⟨out, rfl⟩ := notchOp_next h
  rfl

section
variable {s : State} (hfree : mainFree s = true)
include hfree

theorem execConvert_of_free : exec .convert s = .next (convertOp s) := whenFree_of_free hfree _

theorem execEwma_of_free : exec .ewma s = .next (ewmaOp s) := whenFree_of_free hfree _

theorem execHpush_of_free : exec .hpush s = .next (hpushOp s) := whenFree_of_free hfree _

theorem execNotch_of_free : exec .notch s = notchOp s := whenFree_of_free hfree _

theorem execFir_of_free : exec .fir s = firOp s := whenFree_of_free hfree _

theorem execDiag_of_free : exec .diag s = .next (diagOp s) := whenFree_of_free hfree _

theorem execValue_of_free : exec .value s = .next (valueOp s) := whenFree_of_free hfree _

theorem execCrc8_of_free : exec .crc8 s = .next (crc8Op s) := whenFree_of_free hfree _

theorem execPackBin_of_free : exec .packBin s = .next (packBinOp s) := whenFree_of_free hfree _

theorem execPackTxt_of_free : exec .packTxt s = .next (packTxtOp s) := whenFree_of_free hfree _

theorem execTick_of_free (hcode : s.ports.adcCode ≤ codeMax) : exec .tick s = tickOp s :=
  (whenFree_of_free hfree _).trans (withConversion_of_le hcode _)

theorem execXmit_of_free (hroom : txqRoom s (frameLen s.cfg.frameMode) = true) : exec .xmit s = .next (xmitOp s) :=
  (whenFree_of_free hfree _).trans (if_pos hroom)

end

/-- A tick where MAIN may take steps is its six operations, one after another. -/
theorem tickOp_eq_execAll {s : State} (hfree : mainFree s = true) (hcode : s.ports.adcCode ≤ codeMax) :
    tickOp s = andThen (execAll [.sample, .convert, .ewma, .hpush, .notch, .fir] s) fun t =>
      .next (clearTickLocals t) := by
  simp only [execAll, execSample_of_free, execConvert_of_free, execEwma_of_free, execHpush_of_free, execNotch_of_free,
    mainFree_sampleOp, mainFree_convertOp, mainFree_ewmaOp, mainFree_hpushOp, hfree, hcode, andThen_next, andThen_assoc]
  refine andThen_congr fun t ht => ?_
  rw [execFir_of_free (by simpa [hfree] using mainFree_of_notchOp ht)]

/-- The packing operation of a frame variant (43_framer_crc.md R180). -/
def packInstr : FrameMode → Instr
  | .binary => .packBin
  | .text => .packTxt

theorem execPack_of_free {s : State} (hfree : mainFree s = true) :
    exec (packInstr s.cfg.frameMode) s = .next (packOp s) := by
  cases hmode : s.cfg.frameMode with
  | binary => simp only [packInstr, packOp, hmode, execPackBin_of_free hfree]
  | text => simp only [packInstr, packOp, hmode, execPackTxt_of_free hfree]

/-- A transmit where MAIN may take steps is its operations, then the enqueue and the two writes. -/
theorem xmitOp_eq_execAll {s : State} (hfree : mainFree s = true) :
    .next (xmitOp s) =
      andThen (execAll [.diag, .value, packInstr s.cfg.frameMode] s) fun t =>
        .next (clearFrameLocals
          { t with txq := t.txq ++ t.locals.frame, lastTransmitTime := s.locals.now, pendingSend := false }) := by
  have hpack : exec (packInstr s.cfg.frameMode) (valueOp (diagOp s)) = .next (packOp (valueOp (diagOp s))) :=
    execPack_of_free (s := valueOp (diagOp s)) (by simpa using hfree)
  simp only [execAll, execDiag_of_free, execValue_of_free, mainFree_diagOp, hfree, hpack, andThen_next, xmitOp,
    txqPushAll_eq]

end Sys2Proof.Machine
end

section
/-! SUPPORT. The statements about labels, words, scenario lines and the composites (30_encoding.md). -/

namespace Sys2Proof.Proofs

open Sys2Proof.Machine Sys2Proof.Safety

/-- Settles O4: line by line, each line's words read back from the time of the line before. -/
theorem scenarioDecodesAfterEncode : Obligations.ScenarioDecodesAfterEncode := by
  unfold Obligations.ScenarioDecodesAfterEncode
  intro prev lines h
  exact decodeWords_flatMap_encodeLine h

/-- Settles O5: an accepted word is made of the label, the argument and the time of its line, and of nothing else. -/
theorem stimulusWordKeepsEveryBit : Obligations.StimulusWordKeepsEveryBit := by
  unfold Obligations.StimulusWordKeepsEveryBit
  intro prev w l h
  exact (decodeWord_eq_ok_iff.mp h).encodes

/-- Settles O36: where MAIN may take steps no sub-operation waits, so each is its own update, in the
composite's order. -/
theorem compositesExpandInFixedOrder : Obligations.CompositesExpandInFixedOrder := by
  unfold Obligations.CompositesExpandInFixedOrder
  intro s hruns
  have hfree : mainFree s = true := mainFree_iff.mpr hruns
  refine ⟨fun hcode => ?_, fun hroom => ?_, ?_⟩
  · rw [execTick_of_free hfree hcode]
    exact tickOp_eq_execAll hfree hcode
  · rw [execXmit_of_free hfree (txqRoom_iff.mpr hroom)]
    exact xmitOp_eq_execAll hfree
  · rw [execPackBin_of_free hfree, execCrc8_of_free]
    · rfl
    · exact hfree

/-- Settles O1: each row is an operation with its label. -/
theorem labelTableDecodes : Obligations.LabelTableDecodes := by
  unfold Obligations.LabelTableDecodes
  exact ⟨decodeLabel_encodeLabel .reset, decodeLabel_encodeLabel .start, decodeLabel_encodeLabel .poll,
    decodeLabel_encodeLabel .trig, decodeLabel_encodeLabel .emit, decodeLabel_encodeLabel .time,
    decodeLabel_encodeLabel .tick, decodeLabel_encodeLabel .sample, decodeLabel_encodeLabel .convert,
    decodeLabel_encodeLabel .ewma, decodeLabel_encodeLabel .hpush, decodeLabel_encodeLabel .notch,
    decodeLabel_encodeLabel .fir, decodeLabel_encodeLabel .xmit, decodeLabel_encodeLabel .value,
    decodeLabel_encodeLabel .crc8, decodeLabel_encodeLabel .packBin, decodeLabel_encodeLabel .packTxt,
    decodeLabel_encodeLabel .diag⟩

/-- Settles O2: the decoder refuses what the table leaves over, and a step passes its refusal on. -/
theorem reservedLabelsAreRefused : Obligations.ReservedLabelsAreRefused := by
  unfold Obligations.ReservedLabelsAreRefused
  refine ⟨decodeLabel_reserved_iff, fun s op rest hcfg hin hop => ?_, fun s w rest hcfg hin hop => ?_⟩
  · exact step_of_op_error hcfg hin ((decodeLabel_reserved_iff op).mpr hop)
  · have hlabel : decodeLabel (wordLabel w) = .error .reservedLabel := (decodeLabel_reserved_iff _).mpr hop
    exact step_of_word_error hcfg hin (decodeWord_of_label_error hlabel)

/-- Settles O3: an assigned label that is no stimulus, or a poll code beyond the port. -/
theorem badStimulusWordsAreRefused : Obligations.BadStimulusWordsAreRefused := by
  unfold Obligations.BadStimulusWordsAreRefused
  intro s w rest hcfg hin hbad
  exact step_of_word_error hcfg hin (decodeWord_of_bad_stimulus hbad)

/-- Settles O6: the label is decoded, and performed where its class and the field `part` admit it. -/
theorem stepPerformsTheLabelledOperation : Obligations.StepPerformsTheLabelledOperation := by
  unfold Obligations.StepPerformsTheLabelledOperation
  refine ⟨fun s label rest i hcfg hin hlabel _ => ?_, fun s nbits w i hcfg hpart hw => ?_⟩
  · rw [step_of_op hcfg hin hlabel]
    exact ⟨fun hi => applyOp_agentStep hi _, fun hi hpart => applyOp_sub_due hi hpart,
      fun hi hpart => applyOp_sub_outside hi hpart⟩
  · exact step_pushLabel hcfg hpart (decodeTableWord_eq_some hw)

/-- Settles O7: both steps apply the decoded line to the state whose inputs have moved on. -/
theorem stepAppliesTheDecodedWord : Obligations.StepAppliesTheDecodedWord := by
  unfold Obligations.StepAppliesTheDecodedWord
  intro s w rest l hcfg hin hw
  rw [step_of_word hcfg hin hw, step_of_line (s := { s with inputs := .line l :: rest }) hcfg rfl]

/-- Settles O8: the refusals in the model's order, then the POLL. -/
theorem pollLineRunsOnePoll : Obligations.PollLineRunsOnePoll := by
  unfold Obligations.PollLineRunsOnePoll
  intro s t code rest hcfg hin at'
  have hat (hle : s.time ≤ t) : step s = pollAt at' code := step_of_timed_line hcfg hin (applyLine_poll t code) hle
  refine ⟨fun hlt => ?_, fun hle hpoll => ?_, fun hle hpoll hcode hdue => ?_, fun hle hpoll hcode hdue => ?_,
    fun c hle hpoll hcode => ?_⟩
  · exact step_of_late_line hcfg hin (applyLine_poll t code) hlt
  · rw [hat hle, pollAt_of_not_enabled hpoll]
  · rw [hat hle, hcode, pollAt_none hpoll, if_pos hdue]
  · rw [hat hle, hcode, pollAt_none hpoll, if_neg (by simp [hdue])]
  · rw [hat hle, hcode, pollAt_some hpoll]
    rfl

/-- Settles O9: line by line, what is done and what is left of the line. -/
theorem otherLinesRunTheirSteps : Obligations.OtherLinesRunTheirSteps := by
  unfold Obligations.OtherLinesRunTheirSteps
  intro s rest hcfg after
  have hline {l : Line} (hin : s.inputs = .line l :: rest) : step s = applyLine l { s with inputs := rest } :=
    step_of_line hcfg hin
  have hthen (l : Line) (later : List Input) :
      step { s with inputs := .line l :: later } = applyLine l { s with inputs := later } :=
    step_of_line (s := { s with inputs := .line l :: later }) hcfg rfl
  refine ⟨hline, fun t hin hle => ?_, fun t hin hle => ?_, fun t hin hlt => ?_, fun t1 t2 code hin hlt => ?_,
    fun t code hin => ?_, fun t1 t2 code hin hlt => ?_, hline, fun n hin hlen => ?_, fun n hin hlen => ?_⟩
  · exact step_of_timed_line hcfg hin (applyLine_start t) hle
  · rw [step_of_timed_line hcfg hin (applyLine_trig t) hle, risingEdge_eq]
  · rcases hin with hin | hin
    · exact step_of_late_line hcfg hin (applyLine_start t) hlt
    · exact step_of_late_line hcfg hin (applyLine_trig t) hlt
  · rw [hline hin, applyLine_pollRange_first hlt, hthen, thenLine]
  · rw [hline hin, applyLine_pollRange_single, hthen]
  · rw [hline hin, applyLine_pollRange_empty hlt]
  · rw [hline hin, applyLine_emit_empty]
    exact hlen
  · rw [hline hin, applyLine_emit_first]
    · split <;> rfl
    · exact hlen

/-- Settles O10: the level change into reset is RESET; out of reset it sets the ports and the edge detector. -/
theorem levelChangesSetEdgeAndReset : Obligations.LevelChangesSetEdgeAndReset := by
  unfold Obligations.LevelChangesSetEdgeAndReset
  intro s p rest hcfg hin
  have hstep := step_of_level hcfg hin
  refine ⟨fun hrst => ?_, fun hrst hlow hhigh hrun hirq hout => ?_, fun hrst hno => ?_⟩
  · rw [hstep, setLevels_of_rst hrst]
    rfl
  · rw [hstep, setLevels_of_not_rst hrst, hhigh, edgeAfter_of_rise hlow hrun hirq hout]
  · rw [hstep, setLevels_of_not_rst hrst, edgeAfter_of_no_rise hno]

end Sys2Proof.Proofs
end

section
/-! SUPPORT. Products by a positive constant and quotients of any number, infinities among them (00_scope.md R10,
log entry 8). -/

namespace Sys2Proof.Machine

theorem f32IsNaN_eq_false_iff (a : F32) : f32IsNaN a = false ↔ a.toNat % 2 ^ 31 ≤ infBits := by
  simp only [f32IsNaN, f32Exp, f32Frac, infBits, Bool.and_eq_false_iff, beq_eq_false_iff_ne, bne_eq_false_iff_eq]
  omega

theorem f32IsNaN_f32Pack {p : Nat} (sign : Bool) (h : p ≤ infBits) : f32IsNaN (f32Pack sign p) = false := by
  rw [f32IsNaN_eq_false_iff, f32Pack_toNat_mod sign h]
  exact h

/-- A number of sign 0 has a pattern up to +infinity. -/
theorem le_inf_of_not_sign {a : F32} (hnan : f32IsNaN a = false) (hsign : f32Sign a = false) : a.toNat ≤ infBits := by
  rw [f32IsNaN_eq_false_iff] at hnan
  rw [f32Sign_eq, decide_eq_false_iff_not] at hsign
  omega

/-- A finite value of sign 0 has a pattern below +infinity. -/
theorem lt_inf_of_finite {a : F32} (hfin : f32IsFinite a = true) (hsign : f32Sign a = false) : a.toNat < infBits := by
  rw [f32IsFinite_iff] at hfin
  rw [f32Sign_eq, decide_eq_false_iff_not] at hsign
  omega

theorem f32Mag_ne_zero_of_isInf {a : F32} (h : f32IsInf a = true) : f32Mag a ≠ 0 := by
  have hexp : f32Exp a ≠ 0 := by
    simp only [f32IsInf, Bool.and_eq_true, beq_iff_eq] at h
    omega
  rw [f32Mag, if_neg hexp]
  positivity

/-- A positive finite value times any number: the sign is the other operand's, and only an infinity gives one without
rounding. -/
theorem f32mul_eq_pack {a b : F32} (ha : a.toNat < infBits) (hpos : f32Mag a ≠ 0) (hb : f32IsNaN b = false) :
    f32mul a b =
      f32Pack (f32Sign b) (if f32IsInf b then infBits else roundMag (f32Mag a * f32Mag b) (2 ^ 149)) := by
  obtain ⟨hsa, hna⟩ := nonneg_of_le_inf ha.le
  have hia := (finite_of_lt_inf ha).2
  cases hinf : f32IsInf b with
  | true => simp [f32mul, hsa, hna, hia, hb, hinf, hpos, f32Mag_ne_zero_of_isInf hinf]
  | false => simp [f32mul, hsa, hna, hia, hb, hinf]

theorem f32mul_not_nan {a b : F32} (ha : a.toNat < infBits) (hpos : f32Mag a ≠ 0) (hb : f32IsNaN b = false) :
    f32IsNaN (f32mul a b) = false := by
  rw [f32mul_eq_pack ha hpos hb]
  refine f32IsNaN_f32Pack _ ?_
  split
  · exact le_rfl
  · exact roundMag_le_inf _ _

theorem isInf_of_toNat {a : F32} (h : a.toNat = infBits) : f32IsInf a = true := by
  simp [f32IsInf, f32Exp, f32Frac, h, infBits]

/-- Multiplication by a positive finite value does not reverse the order from +0.0 to +infinity. -/
theorem f32mul_mono_right {a b d : F32} (ha : a.toNat < infBits) (hpos : f32Mag a ≠ 0) (hbd : b.toNat ≤ d.toNat)
    (hd : d.toNat ≤ infBits) : (f32mul a b).toNat ≤ (f32mul a d).toNat := by
  obtain hlt | heq := hd.lt_or_eq
  · exact f32mul_mono le_rfl hbd ha hlt
  · have hmax : (f32mul a d).toNat = infBits := by
      obtain ⟨hsd, hnd⟩ := nonneg_of_le_inf hd
      rw [f32mul_eq_pack ha hpos hnd, hsd, if_pos (isInf_of_toNat heq), f32Pack_false_toNat le_rfl]
    rw [hmax]
    exact f32mul_le_inf ha hpos (hbd.trans hd)

/-- A quotient of finite values from +0.0 up by a positive one. -/
theorem f32div_toNat {a b : F32} (ha : a.toNat < infBits) (hb : b.toNat < infBits) (hpos : f32Mag b ≠ 0) :
    (f32div a b).toNat = roundMag (f32Mag a * 2 ^ 149) (f32Mag b) := by
  obtain ⟨hsa, hna⟩ := nonneg_of_le_inf ha.le
  obtain ⟨hsb, hnb⟩ := nonneg_of_le_inf hb.le
  simp [f32div, hsa, hna, hsb, hnb, hpos, (finite_of_lt_inf ha).2, (finite_of_lt_inf hb).2,
    f32Pack_false_toNat (roundMag_le_inf _ _)]

/-- Division by a positive finite value does not reverse the order from +0.0 to +infinity. -/
theorem f32div_mono_left {a b d : F32} (had : a.toNat ≤ d.toNat) (hd : d.toNat ≤ infBits) (hb : b.toNat < infBits)
    (hpos : f32Mag b ≠ 0) : (f32div a b).toNat ≤ (f32div d b).toNat := by
  obtain hlt | heq := hd.lt_or_eq
  · rw [f32div_toNat (by omega) hb hpos, f32div_toNat hlt hb hpos]
    have hpos' := Nat.pos_of_ne_zero hpos
    refine roundMag_mono hpos' hpos' (Nat.mul_le_mul_right _ (Nat.mul_le_mul_right _ ?_))
    exact (f32Mag_le_iff (by omega) hd).mpr had
  · have hmax : (f32div d b).toNat = infBits := by
      obtain ⟨hsb, hnb⟩ := nonneg_of_le_inf hb.le
      obtain ⟨hsd, hnd⟩ := nonneg_of_le_inf hd
      simp [f32div, hsb, hnb, hsd, hnd, isInf_of_toNat heq, (finite_of_lt_inf hb).2, f32Pack_false_toNat le_rfl]
    rw [hmax]
    exact f32div_le_inf (had.trans hd) hb hpos

/-- The ordered comparison of two numbers is that of their values. -/
theorem f32gt_eq {a b : F32} (ha : f32IsNaN a = false) (hb : f32IsNaN b = false) :
    f32gt a b = decide (f32Val b < f32Val a) := by
  simp [f32gt, ha, hb]

end Sys2Proof.Machine
end

section
/-! SUPPORT. `EXPF` (40_sample_convert.md R106): it does not fall from +0.0 up, starts from 1.0, and gives a number for
every number. -/

namespace Sys2Proof.Machine

/-! ## The cases of the argument -/

theorem expf_correctlyRounded {x : F32} (hx : x.toNat ≤ infBits) :
    expf .correctlyRounded x = expCorrectlyRounded x := by
  obtain ⟨hsign, hnan⟩ := nonneg_of_le_inf hx
  simp [expf, hsign, hnan]

theorem expf_table (breakpoints : List (F32 × F32)) {x : F32} (hx : x.toNat ≤ infBits) :
    expf (.table breakpoints) x = expTable breakpoints x := by
  obtain ⟨hsign, hnan⟩ := nonneg_of_le_inf hx
  simp [expf, hsign, hnan]

theorem expf_of_sign (f : ExpFn) {x : F32} (hnan : f32IsNaN x = false) (hsign : f32Sign x = true) :
    expf f x = notNaN (Config.expfBelowZero x) := by
  simp [expf, hsign, hnan]

/-! ## The correctly rounded exponential -/

/-- The series does not fall in its argument: no term does, and the terms after a 0 are 0. -/
theorem expSeries_mono {mag mag' : Nat} (hmag : mag ≤ mag') (fuel : Nat) {j term term' : Nat}
    (hterm : term ≤ term') : expSeries fuel j mag term ≤ expSeries fuel j mag' term' := by
  induction fuel generalizing j term term' with
  | zero => exact hterm
  | succ fuel ih =>
    rw [expSeries, expSeries]
    split
    · exact Nat.zero_le _
    · rw [if_neg (by omega)]
      exact Nat.add_le_add hterm (ih (Nat.div_le_div_right (Nat.mul_le_mul hterm hmag)))

theorem expCorrectlyRounded_toNat (x : F32) :
    (expCorrectlyRounded x).toNat =
      if 89 * 2 ^ 149 ≤ f32Mag x then infBits
      else roundMag (expSeries 256 0 (f32Mag x) (2 ^ 200) * 2 ^ 149) (2 ^ 200) := by
  rw [expCorrectlyRounded]
  split
  · exact f32Pack_false_toNat le_rfl
  · exact f32Pack_false_toNat (roundMag_le_inf _ _)

theorem expCorrectlyRounded_mono {x y : F32} (hxy : f32Mag x ≤ f32Mag y) :
    (expCorrectlyRounded x).toNat ≤ (expCorrectlyRounded y).toNat := by
  rw [expCorrectlyRounded_toNat, expCorrectlyRounded_toNat y]
  by_cases hy : 89 * 2 ^ 149 ≤ f32Mag y
  · rw [if_pos hy]
    split
    · exact le_rfl
    · exact roundMag_le_inf _ _
  · rw [if_neg hy, if_neg (by omega)]
    refine roundMag_mono (by positivity) (by positivity) (Nat.mul_le_mul_right _ (Nat.mul_le_mul_right _ ?_))
    exact expSeries_mono hxy 256 le_rfl

/-! ## The table -/

/-- A lookup on from the value `y` found so far. -/
def expTableFrom (y : F32) (breakpoints : List (F32 × F32)) (x : F32) : F32 :=
  breakpoints.foldl (fun y p => if p.1.toNat ≤ x.toNat then p.2 else y) y

theorem expTable_eq_from (breakpoints : List (F32 × F32)) (x : F32) :
    expTable breakpoints x = expTableFrom 0x3F800000 breakpoints x := rfl

theorem expTableFrom_cons (y : F32) (p : F32 × F32) (rest : List (F32 × F32)) (x : F32) :
    expTableFrom y (p :: rest) x = expTableFrom (if p.1.toNat ≤ x.toNat then p.2 else y) rest x := rfl

theorem expTableRises_cons {key value : Nat} {p : F32 × F32} {rest : List (F32 × F32)} :
    expTableRises key value (p :: rest) = true ↔
      key < p.1.toNat ∧ p.1.toNat ≤ infBits ∧ value ≤ p.2.toNat ∧ p.2.toNat ≤ infBits
        ∧ expTableRises p.1.toNat p.2.toNat rest = true := by
  simp [expTableRises, and_assoc]

/-- A larger argument finds no smaller value: it passes every breakpoint the smaller one passes, and values do not fall
along the table. -/
theorem expTableFrom_mono {x x' : F32} (hx : x.toNat ≤ x'.toNat) {breakpoints : List (F32 × F32)} {key value : Nat}
    (h : expTableRises key value breakpoints = true) {y y' : F32} (hy : y.toNat ≤ y'.toNat)
    (hy' : y'.toNat ≤ value) :
    (expTableFrom y breakpoints x).toNat ≤ (expTableFrom y' breakpoints x').toNat := by
  induction breakpoints generalizing key value y y' with
  | nil => exact hy
  | cons p rest ih =>
    obtain ⟨-, -, hvalue, -, hrest⟩ := expTableRises_cons.mp h
    rw [expTableFrom_cons, expTableFrom_cons]
    by_cases hpass : p.1.toNat ≤ x.toNat
    · rw [if_pos hpass, if_pos (hpass.trans hx)]
      exact ih hrest le_rfl le_rfl
    · rw [if_neg hpass]
      split
      · exact ih hrest (by omega) le_rfl
      · exact ih hrest hy (hy'.trans hvalue)

/-- Up to the key that every breakpoint exceeds, the lookup finds none of them. -/
theorem expTableFrom_below {key value : Nat} {breakpoints : List (F32 × F32)}
    (h : expTableRises key value breakpoints = true) (y : F32) {x : F32} (hx : x.toNat ≤ key) :
    expTableFrom y breakpoints x = y := by
  induction breakpoints generalizing key value with
  | nil => rfl
  | cons p rest ih =>
    obtain ⟨hkey, -, -, -, hrest⟩ := expTableRises_cons.mp h
    rw [expTableFrom_cons, if_neg (by omega)]
    exact ih hrest (by omega)

/-! ## The properties of R106 -/

theorem expf_zero {f : ExpFn} (hf : expFnOk f = true) : expf f 0 = 0x3F800000 := by
  cases f with
  | correctlyRounded => decide +kernel
  | table breakpoints =>
    rw [expf_table breakpoints (by decide), expTable_eq_from]
    exact expTableFrom_below hf _ le_rfl

theorem expf_mono {f : ExpFn} (hf : expFnOk f = true) {x y : F32} (hxy : x.toNat ≤ y.toNat)
    (hy : y.toNat ≤ infBits) : (expf f x).toNat ≤ (expf f y).toNat := by
  have hx : x.toNat ≤ infBits := hxy.trans hy
  cases f with
  | correctlyRounded =>
    rw [expf_correctlyRounded hx, expf_correctlyRounded hy]
    exact expCorrectlyRounded_mono ((f32Mag_le_iff hx hy).mpr hxy)
  | table breakpoints =>
    rw [expf_table breakpoints hx, expf_table breakpoints hy, expTable_eq_from, expTable_eq_from]
    exact expTableFrom_mono hxy hf le_rfl le_rfl

theorem one_le_expf {f : ExpFn} (hf : expFnOk f = true) {x : F32} (hx : x.toNat ≤ infBits) :
    0x3F800000 ≤ (expf f x).toNat := by
  have := expf_mono hf (x := 0) (Nat.zero_le _) hx
  rwa [expf_zero hf] at this

/-- The mask clears bit 23, the exponent's lowest, which every NaN has set. -/
theorem f32Exp_and_ne (y : F32) : f32Exp (y &&& 0xFF7FFFFF) ≠ 255 := by
  intro h
  have hset : (y &&& 0xFF7FFFFF).toNat.testBit 23 = true := by
    rw [f32Exp] at h
    rw [Nat.testBit_eq_decide_div_mod_eq, decide_eq_true_iff]
    omega
  have hclear : (0xFF7FFFFF : F32).toNat.testBit 23 = false := by decide
  rw [BitVec.toNat_and, Nat.testBit_and, hclear, Bool.and_false] at hset
  contradiction

theorem notNaN_not_nan (y : F32) : f32IsNaN (notNaN y) = false := by
  rw [notNaN]
  split
  · exact (not_special_of_finite (bne_iff_ne.mpr (f32Exp_and_ne y))).1
  next h => exact Bool.eq_false_of_not_eq_true h

theorem expf_not_nan {f : ExpFn} (hf : expFnOk f = true) {x : F32} (hx : f32IsNaN x = false) :
    f32IsNaN (expf f x) = false := by
  cases hsign : f32Sign x with
  | true =>
    rw [expf_of_sign f hx hsign]
    exact notNaN_not_nan _
  | false => exact (nonneg_of_le_inf (expf_le_inf hf (le_inf_of_not_sign hx hsign))).2

end Sys2Proof.Machine
end

section
/-! SUPPORT. The voltage over the codes, the raw formula and its clamp (40_sample_convert.md R101, R102, R105 to R110),
and MAIN where it may take no step (60_exceptions.md R202). -/

namespace Sys2Proof.Machine

open Sys2Proof.Safety

theorem expFnOk_of_config {c : Config} (hcfg : configError c = none) : expFnOk c.expf = true := by
  obtain ⟨-, -, -, -, -, -, -, -, hexp⟩ := (configError_eq_none_iff c).mp hcfg
  exact hexp

/-! ## The voltage -/

theorem vsupply_lt_inf {c : Config} (hcfg : configError c = none) : c.vsupply.toNat < infBits := by
  obtain ⟨-, -, ⟨hfin, hpos⟩, -⟩ := (configError_eq_none_iff c).mp hcfg
  exact lt_inf_of_finite hfin ((f32Val_pos_iff _).mp hpos).1

theorem i2f_lt_inf {n : Nat} (h : n ≤ 2 ^ 24) : (i2f n).toNat < infBits :=
  lt_inf_of_finite (i2f_exact h).1 (nonneg_of_le_inf (i2f_nonneg n)).1

theorem i2f_mono {m n : Nat} (h : m ≤ n) : (i2f m).toNat ≤ (i2f n).toNat := by
  rw [i2f, i2f, f32Pack_false_toNat (roundMag_le_inf _ _), f32Pack_false_toNat (roundMag_le_inf _ _)]
  exact roundMag_mono one_pos one_pos (Nat.mul_le_mul_right _ (Nat.mul_le_mul_right _ h))

theorem sampleVoltage_zero {c : Config} (hcfg : configError c = none) : sampleVoltage c 0 = 0 := by
  have hproduct : f32mul (i2f 0) c.vsupply = 0 := by
    apply BitVec.eq_of_toNat_eq
    rw [f32mul_toNat (i2f_lt_inf (Nat.zero_le _)) (vsupply_lt_inf hcfg), show f32Mag (i2f 0) = 0 by decide, zero_mul]
    decide +kernel
  rw [sampleVoltage, hproduct]
  decide +kernel

theorem sampleVoltage_mono {c : Config} (hcfg : configError c = none) {j k : Nat} (hjk : j ≤ k) (hk : k ≤ codeMax) :
    (sampleVoltage c j).toNat ≤ (sampleVoltage c k).toNat := by
  have hcode : (i2f k).toNat < infBits := i2f_lt_inf (hk.trans (by decide))
  have hsupply := vsupply_lt_inf hcfg
  refine f32div_mono_left (f32mul_mono (i2f_mono hjk) le_rfl hcode hsupply) ?_ ?_ ?_
  · rw [f32mul_toNat hcode hsupply]
    exact roundMag_le_inf _ _
  · rw [i2f_codeMax]; decide
  · rw [i2f_codeMax]; decide +kernel

/-! ## The raw formula and its clamp -/

theorem c1_pos : c1.toNat < infBits ∧ f32Mag c1 ≠ 0 := by decide +kernel

theorem c2_pos : c2.toNat < infBits ∧ f32Mag c2 ≠ 0 := by decide +kernel

/-- The raw formula of a voltage from +0.0 up is at least C1, since EXPF is at least 1.0. -/
theorem c1_le_rawLux {c : Config} {v : F32} (hcfg : configError c = none) (hv : v.toNat ≤ infBits) :
    c1.toNat ≤ (rawLux c v).toNat := by
  have hexp := expFnOk_of_config hcfg
  have harg := f32mul_le_inf c2_pos.1 c2_pos.2 hv
  calc c1.toNat = (f32mul c1 0x3F800000).toNat := by decide +kernel
    _ ≤ (rawLux c v).toNat :=
      f32mul_mono_right c1_pos.1 c1_pos.2 (one_le_expf hexp harg) (expf_le_inf hexp harg)

theorem c1_le_clampLux {raw : F32} (h : c1.toNat ≤ raw.toNat) : c1.toNat ≤ (clampLux raw).toNat := by
  rw [clampLux]
  split
  · decide
  · exact h

theorem lux_inLuxRange {c : Config} {v : F32} (hcfg : configError c = none) (hv : v.toNat ≤ infBits) :
    InLuxRange (clampLux (rawLux c v)) :=
  ⟨c1_le_clampLux (c1_le_rawLux hcfg hv), lux_inDisplayRange hcfg hv⟩

/-- The raw formula of a number is a number: so are both products by a positive constant and EXPF between them. -/
theorem rawLux_not_nan {c : Config} {v : F32} (hcfg : configError c = none) (hv : f32IsNaN v = false) :
    f32IsNaN (rawLux c v) = false :=
  f32mul_not_nan c1_pos.1 c1_pos.2
    (expf_not_nan (expFnOk_of_config hcfg) (f32mul_not_nan c2_pos.1 c2_pos.2 hv))

theorem f32Val_luxCeil : f32Val luxCeil = 999 * 2 ^ 149 := by decide +kernel

/-- The clamp of a number, read in values. -/
theorem clampLux_eq {raw : F32} (h : f32IsNaN raw = false) :
    clampLux raw = if 999 * 2 ^ 149 < f32Val raw then luxCeil else raw := by
  simp only [clampLux, f32gt_eq h (by decide : f32IsNaN luxCeil = false), f32Val_luxCeil, decide_eq_true_eq]

/-- CONVERT as one update of the state, at either side of the clamp. -/
theorem convertOp_eq (s : State) :
    convertOp s =
      if f32gt (rawLux s.cfg s.locals.v) luxCeil then
        { s with luxLast := luxCeil, locals := { s.locals with lux := luxCeil } }
      else
        { s with luxLast := rawLux s.cfg s.locals.v, locals := { s.locals with lux := rawLux s.cfg s.locals.v } } := by
  rw [convertOp, clampLux]
  split <;> rfl

/-! ## MAIN where it may take no step -/

/-- Where MAIN may take no step, every operation of MAIN waits. -/
theorem exec_waits_of_not_free {i : Instr} {s t : State} (h : exec i s = .next t) (hfree : mainFree s = false)
    (hreset : i ≠ .reset) (htrig : i ≠ .trig) (hemit : i ≠ .emit) (htime : i ≠ .time) : t = s := by
  have wait : ∀ {r : Result}, whenFree s r = .next t → t = s := fun h => by
    simpa [whenFree_of_not_free hfree, eq_comm] using h
  cases i with
  | reset | trig | emit | time => contradiction
  | start => simpa [exec, execStart, startEnabled, hfree, eq_comm] using h
  | poll => simpa [exec, execPoll, pollEnabled, hfree, eq_comm] using h
  | tick | sample | convert | ewma | hpush | notch | fir | xmit | value | crc8 | packBin | packTxt | diag =>
    exact wait h

theorem mainFree_of_stuck {s : State} (h : s.stuck = some .adcOutOfRange) : mainFree s = false := by
  simp [mainFree, h]

/-- No operation lifts the mark: only those with a conversion could, and they wait. -/
theorem exec_keeps_stuck {i : Instr} {s t : State} (h : exec i s = .next t) (hs : s.stuck = some .adcOutOfRange) :
    t.stuck = some .adcOutOfRange := by
  by_contra hne
  obtain ⟨-, -, -, -, hstuck, -⟩ := (exec_controlStep h).mode_changes
  have hi := hstuck (by rwa [hs])
  have hwait : t = s := by
    obtain rfl | rfl | rfl := hi <;>
      exact exec_waits_of_not_free h (mainFree_of_stuck hs) nofun nofun nofun nofun
  exact hne (hwait ▸ hs)

/-- A part with a conversion is stuck on a code outside the contract. -/
theorem withConversion_of_gt {s : State} (h : codeMax < s.ports.adcCode) (r : Result) :
    withConversion s r = .next (stickMain s) := if_pos h

end Sys2Proof.Machine
end

section
/-! SUPPORT. The statements about sampling and conversion (40_sample_convert.md). -/

namespace Sys2Proof.Proofs

open Sys2Proof.Machine Sys2Proof.Safety

/-- Settles O40: neither the series nor a table falls from +0.0 up, where both give 1.0; below +0.0 the free value is
made a number. -/
theorem expfHasItsFourProperties : Obligations.ExpfHasItsFourProperties := by
  unfold Obligations.ExpfHasItsFourProperties
  intro c hcfg
  have hexp := expFnOk_of_config hcfg
  exact ⟨expf_zero hexp, fun x y => expf_mono hexp, fun x hx => ⟨one_le_expf hexp hx, expf_le_inf hexp hx⟩,
    fun x => expf_not_nan hexp⟩

/-- Settles O41: the code's float, its product with VSUPPLY and the quotient each keep the order, up to +infinity. -/
theorem voltageRisesWithTheCode : Obligations.VoltageRisesWithTheCode := by
  unfold Obligations.VoltageRisesWithTheCode
  intro c hcfg
  exact ⟨sampleVoltage_zero hcfg, fun k => sampleVoltage_le_inf hcfg, fun j k => sampleVoltage_mono hcfg⟩

/-- Settles O42: EXPF is at least 1.0, so the raw formula is at least C1, and the clamp cuts it at 999.0. -/
theorem luxStaysBetweenC1AndTheCeiling : Obligations.LuxStaysBetweenC1AndTheCeiling := by
  unfold Obligations.LuxStaysBetweenC1AndTheCeiling
  intro c hcfg
  exact ⟨fun code hcode => lux_inLuxRange hcfg (sampleVoltage_le_inf hcfg hcode), fun v => lux_inLuxRange hcfg⟩

/-- Settles O43: the raw formula of a number is a number, also where EXPF of -0.0 is a free value, so the ordered
comparison is that of the values. -/
theorem clampLawOfConvert : Obligations.ClampLawOfConvert := by
  unfold Obligations.ClampLawOfConvert
  intro c v hcfg hv _ raw
  rw [clampLux_eq (rawLux_not_nan hcfg hv)]
  refine ⟨?_, fun hle => if_neg hle.not_gt, fun hgt => if_pos hgt⟩
  split
  · exact f32Val_luxCeil.le
  next h => exact not_lt.mp h

/-- Settles O23: the three conversions are stuck by `withConversion`; afterwards MAIN's operations wait and no other
writes the mark. -/
theorem outOfRangeCodeIsStuck : Obligations.OutOfRangeCodeIsStuck := by
  unfold Obligations.OutOfRangeCodeIsStuck
  refine ⟨fun s hruns hcode => ?_, fun i s t hs h => ?_⟩
  · have hfree := mainFree_iff.mpr hruns
    have stuck : ∀ r, withConversion s r = .next (stickMain s) := withConversion_of_gt hcode
    have gated : ∀ r, whenFree s (withConversion s r) = .next (stickMain s) := fun r =>
      (whenFree_of_free hfree _).trans (stuck r)
    refine ⟨gated _, gated _, fun hpoll hdue => ?_⟩
    simp only [exec, execPoll, hpoll, hdue, Bool.not_true, Bool.false_eq_true, if_false, if_true, stuck]
    rfl
  · exact ⟨exec_keeps_stuck h hs, exec_waits_of_not_free h (mainFree_of_stuck hs)⟩

/-- Settles O24: CONVERT where MAIN may take steps is its one update, at either side of the clamp. -/
theorem convertClampsTheRawFormula : Obligations.ConvertClampsTheRawFormula := by
  unfold Obligations.ConvertClampsTheRawFormula
  intro s hruns raw
  rw [execConvert_of_free (mainFree_iff.mpr hruns), convertOp_eq]
  rfl

end Sys2Proof.Proofs
end

section
/-! SUPPORT. The filter stages: a history after many pushes, the FIR sum by index and its sign, and each stage and the
whole TICK as one update of the state (41_filter_cascade.md R120 to R133). -/

namespace Sys2Proof.Machine

/-! ## Histories (R126, R127) -/

/-- After any insertions a history is the inserted values, newest first, then what it held, cut to its length. -/
theorem foldl_historyPush (hist xs : List F32) :
    xs.foldl historyPush hist = (xs.reverse ++ hist).take hist.length := by
  induction xs generalizing hist with
  | nil => simp
  | cons x xs ih =>
    rw [List.foldl_cons, ih, historyPush_length, historyPush, List.reverse_cons, List.append_assoc,
      List.singleton_append, List.take_append, List.take_append, List.take_take,
      Nat.min_eq_left (Nat.sub_le _ _)]

/-! ## The FIR sum (R131) -/

/-- FIR's recursion over both lists is the sum over the indices below TAPS, in rising order. -/
theorem firSum_eq_foldl {acc : F32} {hist weights : List F32} (h : weights.length ≤ hist.length) :
    firSum acc hist weights =
      (List.range weights.length).foldl (fun a i => f32add a (f32mul (hist.getD i 0) (weights.getD i 0))) acc := by
  induction hist generalizing acc weights with
  | nil =>
    obtain rfl : weights = [] := List.length_eq_zero_iff.mp (Nat.le_zero.mp h)
    rfl
  | cons x hist ih =>
    cases weights with
    | nil => rfl
    | cons w weights =>
      rw [List.length_cons, List.range_succ_eq_map, List.foldl_cons, List.foldl_map]
      exact ih (Nat.le_of_succ_le_succ h)

/-- -0.0 is the pattern of sign 1 and magnitude 0. -/
theorem eq_negZero_iff (a : F32) : a = 0x80000000 ↔ f32Sign a = true ∧ f32Mag a = 0 := by
  constructor
  · rintro rfl; decide
  · rintro ⟨hsign, hmag⟩
    rw [f32Sign_eq, decide_eq_true_eq] at hsign
    rw [f32Mag_eq_patMag] at hmag
    have hpattern : a.toNat % 2 ^ 31 = 0 := patMag_strictMono.injective hmag
    bv_omega

/-- A NaN has its quiet bit. -/
theorem f32NaN_ne_negZero (a b : F32) : f32NaN a b ≠ 0x80000000 := by
  intro h
  have hquiet := congrArg (BitVec.getLsbD · 22) h
  simp [f32NaN] at hquiet

theorem ne_negZero_of_isInf {a : F32} (h : f32IsInf a = true) : a ≠ 0x80000000 := fun hzero =>
  f32Mag_ne_zero_of_isInf h ((eq_negZero_iff a).mp hzero).2

/-- A whole number of units from 1 on does not round to 0: the unit is the smallest positive value. -/
theorem roundMag_pos {n : Nat} (h : n ≠ 0) : 0 < roundMag n 1 :=
  calc 0 < roundMag 1 1 := by decide
    _ ≤ roundMag n 1 := roundMag_mono one_pos one_pos (by omega)

/-- Only -0.0 plus -0.0 is -0.0: another exact 0 is +0.0, and no other sum rounds to a zero. -/
theorem f32add_ne_negZero {a : F32} (ha : a ≠ 0x80000000) (b : F32) : f32add a b ≠ 0x80000000 := by
  simp only [f32add]
  split_ifs with hnan hainf hopposite hbinf hzero
  · exact f32NaN_ne_negZero a b
  · exact f32NaN_ne_negZero a b
  · exact ha
  · exact ne_negZero_of_isInf hbinf
  · rw [Ne, eq_negZero_iff, f32Sign_f32Pack _ (Nat.zero_le _), Bool.and_eq_true]
    rintro ⟨⟨hsa, hsb⟩, -⟩
    refine ha ((eq_negZero_iff a).mpr ⟨hsa, ?_⟩)
    simp only [f32Val, hsa, hsb, if_true] at hzero
    omega
  · rw [Ne, eq_negZero_iff, f32Mag_f32Pack _ (roundMag_le_inf _ _)]
    rintro ⟨-, hmag⟩
    exact (roundMag_pos (Int.natAbs_ne_zero.mpr hzero)).ne' (patMag_strictMono.injective hmag)

/-- A running sum that is not -0.0 never becomes it, whatever the products are. -/
theorem firSum_ne_negZero {acc : F32} (hacc : acc ≠ 0x80000000) (hist weights : List F32) :
    firSum acc hist weights ≠ 0x80000000 := by
  induction hist generalizing acc weights with
  | nil => exact hacc
  | cons x hist ih =>
    cases weights with
    | nil => exact hacc
    | cons w weights => exact ih (f32add_ne_negZero hacc _) weights

/-! ## The stages and the tick (R120, R121) -/

/-- BETA is the rounded difference of 1.0 and ALPHA, not the literal 0.05 (R123). -/
theorem f32sub_one_alpha : f32sub 0x3F800000 alpha = beta := by decide +kernel

/-- HPUSH on a history that is not empty drops the oldest element. -/
theorem hpushOp_eq {s : State} (h : s.rawHist ≠ []) :
    hpushOp s = { s with rawHist := s.locals.lux :: s.rawHist.dropLast } := by
  rw [hpushOp, historyPush_eq h]

/-- What the first four stages leave for NOTCH and FIR: the illuminance stands in front of the history. -/
theorem stages_before_notch_eq {s : State} {lux : F32} (hne : s.rawHist ≠ [])
    (hlux : clampLux (rawLux s.cfg (sampleVoltage s.cfg s.ports.adcCode)) = lux) :
    hpushOp (ewmaOp (convertOp (sampleOp s))) =
      { s with
        luxLast := lux
        smoothed := ewmaNext s.smoothed lux
        rawHist := lux :: s.rawHist.dropLast
        locals := { s.locals with code := s.ports.adcCode, v := sampleVoltage s.cfg s.ports.adcCode, lux := lux }
        events := s.events ++ [.adcRead s.ports.adcCode] } := by
  rw [← historyPush_eq hne]
  exact hpush_ewma_convert_eq (sampleOp s) lux hlux

/-- The end of a tick, from the state NOTCH finds: FIR reads the history NOTCH read, which neither writes. -/
theorem stages_from_notch_eq {s : State} {n0 n1 r0 r1 r2 : F32} {older : List F32} (hn : s.notchHist = [n0, n1])
    (hr : s.rawHist = r0 :: r1 :: r2 :: older) (htaps : s.cfg.taps ≤ s.rawHist.length) :
    (andThen (notchOp s) fun s1 => andThen (firOp s1) fun s2 => .next (clearTickLocals s2)) = .next
      { s with
        notchHist := [notchSum n0 n1 r0 r1 r2, n0]
        notchOut := notchSum n0 n1 r0 r1 r2
        firOut := firSum 0 s.rawHist s.cfg.firW
        locals := { s.locals with code := 0, v := 0, lux := 0 } } := by
  rw [notchOp_eq hn hr, andThen_next, firOp_eq]
  · rfl
  · exact htaps

end Sys2Proof.Machine
end

section
/-! SUPPORT. The statements about the filter cascade (41_filter_cascade.md). -/

namespace Sys2Proof.Proofs

open Sys2Proof.Machine Sys2Proof.Safety

/-- Settles O28: the recursion over the two lists runs through the indices below TAPS. -/
theorem firSumsAscending : Obligations.FirSumsAscending := by
  unfold Obligations.FirSumsAscending
  intro s hruns htaps
  rw [execFir_of_free (mainFree_iff.mpr hruns), firOp_eq htaps, firSum_eq_foldl htaps]

/-- Settles O29: a tick with its conversion is its six stages, each reading what the stages before it left. -/
theorem tickReadsWhatEachStageReads : Obligations.TickReadsWhatEachStageReads := by
  unfold Obligations.TickReadsWhatEachStageReads
  intro s n0 n1 r0 r1 r2 older hruns hcode hn hr htaps lux hist out
  have hread : hist = lux :: r0 :: r1 :: (r2 :: older).dropLast := by simp only [hist, hr]; rfl
  have hlen : hist.length = s.rawHist.length := by simp [hist, hr]
  rw [execTick_of_free (mainFree_iff.mpr hruns) hcode, tickOp, stages_before_notch_eq (lux := lux) (by simp [hr]) rfl]
  exact stages_from_notch_eq hn hread (hlen ▸ htaps)

/-- Settles O45, by induction on the inserted values. -/
theorem historyShiftLaw : Obligations.HistoryShiftLaw := by
  unfold Obligations.HistoryShiftLaw
  exact foldl_historyPush

/-- Settles O46: the sum starts from +0.0, and adding anything to a value other than -0.0 does not give -0.0. -/
theorem firNeverGivesNegativeZero : Obligations.FirNeverGivesNegativeZero := by
  unfold Obligations.FirNeverGivesNegativeZero
  intro hist weights _ _
  exact firSum_ne_negZero (by decide) hist weights

/-- Settles O47: at most 65536 products of at most 2^110 each stay below the limit of the finite values. -/
theorem firOutputIsFinite : Obligations.FirOutputIsFinite := by
  unfold Obligations.FirOutputIsFinite
  intro c hist hcfg hx
  exact firSum_finite_of_config hcfg hx

/-- Settles O25: EWMA where MAIN may take steps is its one update, by ALPHA and the BETA computed from it. -/
theorem ewmaUpdatesTheAccumulator : Obligations.EwmaUpdatesTheAccumulator := by
  unfold Obligations.EwmaUpdatesTheAccumulator
  refine ⟨f32sub_one_alpha, fun s hruns => ?_⟩
  rw [execEwma_of_free (mainFree_iff.mpr hruns)]
  rfl

/-- Settles O26: HPUSH where MAIN may take steps is its one update. -/
theorem hpushShiftsTheHistory : Obligations.HpushShiftsTheHistory := by
  unfold Obligations.HpushShiftsTheHistory
  intro s hruns hne
  rw [execHpush_of_free (mainFree_iff.mpr hruns), hpushOp_eq hne]

/-- Settles O27: NOTCH where MAIN may take steps is its one update, on files of their lengths. -/
theorem notchSumsAndPushes : Obligations.NotchSumsAndPushes := by
  unfold Obligations.NotchSumsAndPushes
  intro s n0 n1 r0 r1 r2 older hruns hn hr acc0 acc1 acc2 acc3 acc4
  rw [execNotch_of_free (mainFree_iff.mpr hruns)]
  exact notchOp_eq hn hr

end Sys2Proof.Proofs
end

section
/-! SUPPORT. The agents' steps and XMIT where they are enabled and where they wait (42_scheduler_trigger.md R151, R160,
R161, R165), and what an enabled POLL leaves in the scheduler's registers (R152 to R158). -/

namespace Sys2Proof.Machine

open Sys2Proof.Safety

/-! ## Steps that are not enabled -/

theorem execStart_of_not_enabled {s : State} (h : startEnabled s = false) : exec .start s = .next s := by
  simp [exec, execStart, h]

theorem execPoll_of_not_enabled {s : State} (h : pollEnabled s = false) : exec .poll s = .next s := by
  simp [exec, execPoll, h]

theorem execTrig_of_not_enabled {s : State} (h : trigEnabled s = false) : exec .trig s = .next s := by
  simp [exec, execTrig, h]

theorem execEmit_of_not_enabled {s : State} (h : emitEnabled s = false) : exec .emit s = .next s := by
  cases hq : s.txq <;> simp [exec, execEmit, hq, h]

theorem exec_sub_of_not_free {i : Instr} {s : State} (hi : i.labelClass ≠ .agentStep) (h : mainFree s = false) :
    exec i s = .next s := by
  cases i with
  | reset | start | poll | trig | emit | time => exact absurd rfl hi
  | tick | sample | convert | ewma | hpush | notch | fir | xmit | value | crc8 | packBin | packTxt | diag =>
    exact whenFree_of_not_free h _

theorem execXmit_of_no_room {s : State} (h : s.cfg.txqDepth < s.txq.length + frameLen s.cfg.frameMode) :
    exec .xmit s = .next s := by
  have hroom : txqRoom s (frameLen s.cfg.frameMode) = false := by simpa [txqRoom] using h
  simp [exec, execXmit, whenFree, hroom]

/-! ## Steps that are enabled -/

theorem execStart_of_enabled {s : State} (h : startEnabled s = true) :
    exec .start s = .next { s with fsm := .run, lastSampleTime := nowOf s, lastTransmitTime := nowOf s } := by
  simp [exec, execStart, h]

theorem execTrig_of_enabled {s : State} (h : trigEnabled s = true) : exec .trig s = .next (takeTrigger s) := by
  simp [exec, execTrig, h]

theorem execEmit_of_enabled {s : State} {b : Byte} {rest : List Byte} (hq : s.txq = b :: rest)
    (h : emitEnabled s = true) :
    exec .emit s = .next (releaseHold (emitEvent { s with txq := rest } (.wire b))) := by
  simp [exec, execEmit, hq, h]

/-- MAIN in RUN can take a POLL where there is room for the frame that is due. -/
theorem pollEnabled_of_room {s : State} (hfree : mainFree s = true) (hrun : s.fsm = .run)
    (hroom : s.holding = true ∨ transmitDue s (nowOf s) = true →
      s.txq.length + frameLen s.cfg.frameMode ≤ s.cfg.txqDepth) : pollEnabled s = true := by
  refine pollEnabled_iff.mpr ⟨hfree, hrun, Bool.eq_false_iff.mpr fun hheld => ?_⟩
  obtain ⟨-, hdue, hfull⟩ := held_iff.mp hheld
  exact absurd (hroom hdue) hfull.not_ge

/-- An enabled POLL is not stuck where a due tick finds a code in range. -/
theorem execPoll_of_enabled {s : State} (h : pollEnabled s = true)
    (hcode : sampleDue s (nowOf s) = true → s.ports.adcCode ≤ codeMax) : exec .poll s = pollOp s := by
  cases hd : sampleDue s (nowOf s) with
  | false => simp [exec, execPoll, h, hd]
  | true => simp [exec, execPoll, h, hd, withConversion_of_le (hcode hd)]

/-! ## The transmit condition -/

theorem transmitDue_of_timer {s : State} (h : s.cfg.txMode = .timer) (now : Millis) :
    transmitDue s now = decide (s.cfg.txPeriod ≤ elapsed now s.lastTransmitTime) := by
  simp [transmitDue, h]

/-- The transmit condition of both modes: the period has elapsed and, in IRQ mode, the request is set. -/
theorem transmitDue_iff {s : State} {now : Millis} :
    transmitDue s now = true ↔
      s.cfg.txPeriod ≤ elapsed now s.lastTransmitTime ∧ (s.cfg.txMode = .irq → s.pendingSend = true) := by
  cases h : s.cfg.txMode <;> simp [transmitDue, h, and_comm]

/-! ## What is counted -/

@[simp] theorem adcReads_append (es es' : List Event) : adcReads (es ++ es') = adcReads es + adcReads es' :=
  List.countP_append

@[simp] theorem diagRecords_append (es es' : List Event) :
    diagRecords (es ++ es') = diagRecords es + diagRecords es' := List.countP_append

@[simp] theorem adcReads_adcRead (code : Nat) : adcReads [.adcRead code] = 1 := rfl
@[simp] theorem adcReads_diag (r : DiagRecord) : adcReads [.diag r] = 0 := rfl
@[simp] theorem adcReads_wire (b : Byte) : adcReads [.wire b] = 0 := rfl
@[simp] theorem diagRecords_adcRead (code : Nat) : diagRecords [.adcRead code] = 0 := rfl
@[simp] theorem diagRecords_diag (r : DiagRecord) : diagRecords [.diag r] = 1 := rfl
@[simp] theorem diagRecords_wire (b : Byte) : diagRecords [.wire b] = 0 := rfl

/-! ## The sampling part of a POLL -/

theorem pollSample_of_not_due {now : Millis} {s : State} (h : sampleDue s now = false) :
    pollSample now s = .next s := by
  simp [pollSample, h]

theorem pollSample_completes {s : State} (now : Millis) (hs : HistoryShape s) : ∃ u, pollSample now s = .next u := by
  obtain ⟨hraw, hnotch⟩ := hs
  obtain ⟨t, ht⟩ := tickOp_completes hnotch hraw
  rw [pollSample, ht]
  split
  · exact ⟨_, rfl⟩
  · exact ⟨_, rfl⟩

/-- The sampling part leaves the POLL's `now`, counts a conversion and moves lastSampleTime exactly when a tick is due,
and emits no record. -/
theorem pollSample_counts {now : Millis} {s u : State} (h : pollSample now s = .next u) :
    u.locals.now = s.locals.now
      ∧ u.lastSampleTime = (if sampleDue s now then now else s.lastSampleTime)
      ∧ adcReads u.events = adcReads s.events + (if sampleDue s now then 1 else 0)
      ∧ diagRecords u.events = diagRecords s.events := by
  obtain ⟨hd, rfl⟩ | ⟨hd, v, hv, rfl⟩ := pollSample_next h
  · simp [hd]
  · obtain ⟨out, rfl⟩ := tickOp_next hv
    simp [hd]

/-! ## The transmit part of a POLL -/

/-- The transmit part writes the queue, the timer, the request and the observation exactly when a transmit is due. -/
theorem pollTransmit_writes (now : Millis) (s : State) :
    (pollTransmit now s).txq = s.txq ++ (if transmitDue s now then frameOf s else [])
      ∧ (pollTransmit now s).lastTransmitTime = (if transmitDue s now then s.locals.now else s.lastTransmitTime)
      ∧ (pollTransmit now s).pendingSend = (if transmitDue s now then false else s.pendingSend)
      ∧ (pollTransmit now s).events = s.events ++ (if transmitDue s now then [.diag (diagRecord s)] else []) := by
  cases h : transmitDue s now <;> simp [pollTransmit, h, xmitOp_eq]

/-- Nothing else is written by the transmit part, local values aside. -/
theorem pollTransmit_frame (now : Millis) (s : State) :
    pollTransmit now s =
      { s with
        txq := (pollTransmit now s).txq
        lastTransmitTime := (pollTransmit now s).lastTransmitTime
        pendingSend := (pollTransmit now s).pendingSend
        locals := (pollTransmit now s).locals
        events := (pollTransmit now s).events } := by
  cases h : transmitDue s now <;> simp [pollTransmit, h, xmitOp_eq]

theorem pollTransmit_sameData (now : Millis) (s : State) : SameData s (pollTransmit now s) := by
  rw [pollTransmit]
  split
  · exact xmitOp_sameData s
  · exact .refl s

/-! ## A POLL -/

/-- `t` is `s` after a POLL that MAIN takes: what is due, by the state the POLL finds, moves its timer, and the transmit
puts one frame at the queue's tail. -/
structure Polled (s t : State) : Prop where
  lastSampleTime : t.lastSampleTime = if sampleDue s (nowOf s) then nowOf s else s.lastSampleTime
  lastTransmitTime : t.lastTransmitTime = if transmitDue s (nowOf s) then nowOf s else s.lastTransmitTime
  pendingSend : t.pendingSend = if transmitDue s (nowOf s) then false else s.pendingSend
  txq : ∃ frame : List Byte, frame.length = frameLen s.cfg.frameMode
    ∧ t.txq = s.txq ++ if transmitDue s (nowOf s) then frame else []
  adcReads : adcReads t.events = adcReads s.events + if sampleDue s (nowOf s) then 1 else 0
  diagRecords : diagRecords t.events = diagRecords s.events + if transmitDue s (nowOf s) then 1 else 0
  filters : sampleDue s (nowOf s) = false → SameData s t
  cfg : t.cfg = s.cfg
  fsm : t.fsm = s.fsm
  time : t.time = s.time
  ports : t.ports = s.ports
  edge : t.edge = s.edge
  holding : t.holding = s.holding
  stuck : t.stuck = s.stuck
  part : t.part = s.part
  inputs : t.inputs = s.inputs

theorem pollOp_polled {s t : State} (h : pollOp s = .next t) : Polled s t := by
  obtain ⟨u, hu, rfl⟩ := pollOp_next h
  have hsame : SameControl s u := { (pollSample_sameControl hu).1 with }
  obtain ⟨hnow, hsample, hadc, hdiag⟩ := pollSample_counts hu
  obtain ⟨htxq, htransmit, hpending, hevents⟩ := pollTransmit_writes (nowOf s) u
  have hframe := pollTransmit_frame (nowOf s) u
  rw [hsame.transmitDue_eq] at htxq htransmit hpending hevents
  exact
    { lastSampleTime := (congrArg State.lastSampleTime hframe).trans hsample
      lastTransmitTime := by rw [clearNow_lastTransmitTime, htransmit, hnow, hsame.lastTransmitTime]
      pendingSend := by rw [clearNow_pendingSend, hpending, hsame.pendingSend]
      txq := ⟨frameOf u, by rw [frameOf_length, hsame.cfg], by rw [clearNow_txq, htxq, hsame.txq]⟩
      adcReads := by
        have hreads : adcReads (pollTransmit (nowOf s) u).events = adcReads u.events := by
          rw [hevents]; split <;> simp
        exact hreads.trans hadc
      diagRecords := by
        rw [clearNow_events, hevents, diagRecords_append, hdiag]
        split <;> rfl
      filters := fun hd => by
        obtain ⟨-, rfl⟩ | ⟨hd', -⟩ := pollSample_next hu
        · exact { pollTransmit_sameData (nowOf s) _ with }
        · cases hd.symm.trans hd'
      cfg := (congrArg State.cfg hframe).trans hsame.cfg
      fsm := (congrArg State.fsm hframe).trans hsame.fsm
      time := (congrArg State.time hframe).trans hsame.time
      ports := (congrArg State.ports hframe).trans hsame.ports
      edge := (congrArg State.edge hframe).trans hsame.edge
      holding := (congrArg State.holding hframe).trans hsame.holding
      stuck := (congrArg State.stuck hframe).trans (pollSample_sameControl hu).2
      part := (congrArg State.part hframe).trans hsame.part
      inputs := (congrArg State.inputs hframe).trans hsame.inputs }

/-- A POLL waits, or is stuck with a conversion out of range, or is one that MAIN takes. -/
theorem execPoll_polled {s t : State} (h : exec .poll s = .next t) :
    t = s ∨ (codeMax < s.ports.adcCode ∧ t = stickMain s) ∨ Polled s t := by
  obtain ⟨-, rfl⟩ | ⟨-, -, hcode, rfl⟩ | ⟨-, -, u, hu, rfl⟩ := execPoll_next h
  · exact .inl rfl
  · exact .inr (.inl ⟨hcode, rfl⟩)
  · exact .inr (.inr (pollOp_polled (by rw [pollOp, hu]; rfl)))

/-- A POLL that MAIN takes completes where the history files have their lengths. -/
theorem pollOp_completes {s : State} (hs : HistoryShape s) : ∃ t, pollOp s = .next t := by
  obtain ⟨u, hu⟩ := pollSample_completes (s := { s with locals := { s.locals with now := nowOf s } }) (nowOf s) hs
  exact ⟨_, by rw [pollOp, hu]; rfl⟩

/-- The sampling part is TICK and the write of lastSampleTime, where MAIN may take steps. -/
theorem pollSample_eq_exec {now : Millis} {s : State} (hfree : mainFree s = true)
    (hcode : sampleDue s now = true → s.ports.adcCode ≤ codeMax) :
    pollSample now s =
      if s.cfg.samplePeriod ≤ elapsed now s.lastSampleTime then
        andThen (exec .tick s) fun t => .next { t with lastSampleTime := now }
      else .next s := by
  by_cases hd : s.cfg.samplePeriod ≤ elapsed now s.lastSampleTime
  · have hdue : sampleDue s now = true := by simpa [sampleDue] using hd
    rw [pollSample, if_pos hdue, if_pos hd, execTick_of_free hfree (hcode hdue)]
  · rw [if_neg hd, pollSample_of_not_due (by simpa [sampleDue] using hd)]

/-- The transmit part is XMIT, where MAIN may take steps and there is room for the frame that is due. -/
theorem pollTransmit_eq_exec {now : Millis} {s : State} (hfree : mainFree s = true)
    (hroom : transmitDue s now = true → txqRoom s (frameLen s.cfg.frameMode) = true) :
    .next (pollTransmit now s) =
      if s.cfg.txPeriod ≤ elapsed now s.lastTransmitTime ∧ (s.cfg.txMode = .irq → s.pendingSend = true) then
        exec .xmit s
      else .next s := by
  simp only [← transmitDue_iff, pollTransmit]
  split
  next hd => rw [execXmit_of_free hfree (hroom hd)]
  next => rfl

end Sys2Proof.Machine
end

section
/-! SUPPORT. Every operation completes where the history files have their lengths, and what an operation that answers a
next state can have done (42_scheduler_trigger.md R159, R163, R170). -/

namespace Sys2Proof.Machine

open Sys2Proof.Safety

/-! ## Completion -/

theorem whenFree_completes {s : State} {r : Result} (h : ∃ t, r = .next t) : ∃ t, whenFree s r = .next t := by
  rw [whenFree]
  split
  · exact h
  · exact ⟨s, rfl⟩

theorem withConversion_completes {s : State} {r : Result} (h : ∃ t, r = .next t) :
    ∃ t, withConversion s r = .next t := by
  rw [withConversion]
  split
  · exact ⟨stickMain s, rfl⟩
  · exact h

theorem execPoll_completes {s : State} (hs : HistoryShape s) : ∃ t, execPoll s = .next t := by
  rw [execPoll]
  split
  · exact ⟨s, rfl⟩
  · split
    · exact withConversion_completes (pollOp_completes hs)
    · exact pollOp_completes hs

/-- No operation faults or refuses where the history files have their lengths. -/
theorem exec_completes (i : Instr) {s : State} (hs : HistoryShape s) : ∃ t, exec i s = .next t := by
  have hraw : 3 ≤ s.rawHist.length ∧ s.cfg.taps ≤ s.rawHist.length := by simp [hs.1, Config.histLen]
  cases i with
  | reset | time => exact ⟨_, rfl⟩
  | start => rw [exec, execStart]; split <;> exact ⟨_, rfl⟩
  | trig => rw [exec, execTrig]; split <;> exact ⟨_, rfl⟩
  | emit =>
    cases he : emitEnabled s with
    | false => exact ⟨s, execEmit_of_not_enabled he⟩
    | true =>
      obtain ⟨-, hne, -⟩ := emitEnabled_iff.mp he
      obtain ⟨b, rest, hq⟩ := List.exists_cons_of_ne_nil hne
      exact ⟨_, execEmit_of_enabled hq he⟩
  | poll => exact execPoll_completes hs
  | tick => exact whenFree_completes (withConversion_completes (tickOp_completes hs.2 hs.1))
  | sample => exact whenFree_completes (withConversion_completes ⟨_, rfl⟩)
  | notch =>
    obtain ⟨t, ht, -⟩ := notchOp_completes hs.2 hraw.1
    exact whenFree_completes ⟨t, ht⟩
  | fir => exact whenFree_completes ⟨_, firOp_eq hraw.2⟩
  | xmit => exact whenFree_completes (by split <;> exact ⟨_, rfl⟩)
  | convert | ewma | hpush | value | crc8 | packBin | packTxt | diag => exact whenFree_completes ⟨_, rfl⟩

/-! ## The outcomes of an operation -/

/-- A gated part waits or is the part itself. -/
theorem eq_or_of_whenFree_next {s t : State} {r : Result} (h : whenFree s r = .next t) : t = s ∨ r = .next t := by
  obtain ⟨-, rfl⟩ | ⟨-, h⟩ := whenFree_eq_next.mp h
  · exact .inl rfl
  · exact .inr h

/-- A gated part with a conversion waits, is stuck with a code out of range, or is the part itself. -/
theorem outcome_of_conversion {s t : State} {r : Result} (h : whenFree s (withConversion s r) = .next t) :
    t = s ∨ (codeMax < s.ports.adcCode ∧ t = stickMain s) ∨ r = .next t :=
  (eq_or_of_whenFree_next h).imp_right fun h => (withConversion_eq_next.mp h).imp_right And.right

theorem execStart_next {s t : State} (h : exec .start s = .next t) :
    t = s ∨ t = { s with fsm := .run, lastSampleTime := nowOf s, lastTransmitTime := nowOf s } := by
  cases he : startEnabled s with
  | false => exact .inl (by simpa [execStart_of_not_enabled he, eq_comm] using h)
  | true => exact .inr (by simpa [execStart_of_enabled he, eq_comm] using h)

theorem execTrig_next {s t : State} (h : exec .trig s = .next t) : t = s ∨ t = takeTrigger s := by
  cases he : trigEnabled s with
  | false => exact .inl (by simpa [execTrig_of_not_enabled he, eq_comm] using h)
  | true => exact .inr (by simpa [execTrig_of_enabled he, eq_comm] using h)

theorem execXmit_next {s t : State} (h : exec .xmit s = .next t) : t = s ∨ t = xmitOp s := by
  obtain rfl | h := eq_or_of_whenFree_next h
  · exact .inl rfl
  · split at h <;> cases h
    · exact .inr rfl
    · exact .inl rfl

/-- Only a conversion of a code out of range marks MAIN as stuck. -/
theorem exec_stuck_of_code_in_range {i : Instr} {s t : State} (h : exec i s = .next t)
    (hcode : s.ports.adcCode ≤ codeMax) : t.stuck = s.stuck := by
  by_contra hne
  obtain ⟨-, -, -, -, hstuck, -⟩ := (exec_controlStep h).mode_changes
  obtain rfl | rfl | rfl := hstuck hne
  · obtain rfl | ⟨hgt, -⟩ | hpolled := execPoll_polled h
    · exact hne rfl
    · exact hgt.not_ge hcode
    · exact hne hpolled.stuck
  · obtain rfl | ⟨hgt, -⟩ | ht := outcome_of_conversion h
    · exact hne rfl
    · exact hgt.not_ge hcode
    · exact hne (tickOp_sameControl ht).2
  · obtain rfl | ⟨hgt, -⟩ | ht := outcome_of_conversion h
    · exact hne rfl
    · exact hgt.not_ge hcode
    · cases ht
      exact hne rfl

end Sys2Proof.Machine
end

section
/-! SUPPORT. The two cadences of TIMER mode (42_scheduler_trigger.md R163, R164): one millisecond of the undisturbed
environment moves each timer exactly where its period divides the time since START. -/

namespace Sys2Proof.Machine

open Sys2Proof.Safety

/-! ## Periods -/

theorem elapsed_ofNat {a b : Nat} (hle : b ≤ a) (hlt : a < b + 2 ^ 32) :
    elapsed (BitVec.ofNat 32 a) (BitVec.ofNat 32 b) = a - b := by
  simp only [elapsed, BitVec.toNat_sub, BitVec.toNat_ofNat]
  omega

/-- Counted from the last multiple of a period, the period has elapsed exactly at the next one. -/
theorem period_elapsed_iff {p : Nat} (hpos : 1 ≤ p) (hmax : p ≤ 2 ^ 32 - 1) (t k : Nat) :
    p ≤ elapsed (BitVec.ofNat 32 (t + (k + 1))) (BitVec.ofNat 32 (t + p * (k / p))) ↔ p ∣ k + 1 := by
  have hmod : k % p < p := Nat.mod_lt k hpos
  have hdiv : p * (k / p) + k % p = k := Nat.div_add_mod k p
  rw [elapsed_ofNat (by omega) (by omega)]
  have hnext : p ∣ p * (k / p) + (k % p + 1) ↔ p ∣ k % p + 1 := Nat.dvd_add_right (Nat.dvd_mul_right p (k / p))
  rw [← Nat.add_assoc, hdiv] at hnext
  rw [hnext]
  constructor
  · intro hle
    exact ⟨1, by omega⟩
  · intro hdvd
    have hle := Nat.le_of_dvd (Nat.succ_pos _) hdvd
    omega

/-- The last multiple of a period moves to the time of each multiple. -/
theorem last_multiple_succ (p t k : Nat) :
    (if p ∣ k + 1 then BitVec.ofNat 32 (t + (k + 1)) else BitVec.ofNat 32 (t + p * (k / p))) =
      BitVec.ofNat 32 (t + p * ((k + 1) / p)) := by
  split
  next hdvd => rw [Nat.mul_div_cancel' hdvd]
  next hdvd => rw [Nat.succ_div_of_not_dvd hdvd]

/-! ## The sink takes every byte -/

theorem emits_inv {n : Nat} {s t : State} (h : emits n s = .next t) (hs : Inv s) : Inv t := by
  induction n generalizing s with
  | zero => cases h; exact hs
  | succ n ih =>
    obtain ⟨u, hu, ht⟩ := andThen_eq_next.mp h
    exact ih ht ((LastMove.op hu).inv hs)

/-- As many EMIT steps as there are bytes put the queue on the wire. -/
theorem emits_drains {s : State} {bytes : List Byte} (hq : s.txq = bytes) (hrst : s.ports.rst = false)
    (hready : s.ports.txReady = true) :
    ∃ t, emits bytes.length s = .next t ∧
      t = { s with txq := [], events := s.events ++ bytes.map .wire, holding := t.holding } := by
  induction bytes generalizing s with
  | nil => exact ⟨s, rfl, by rw [List.map_nil, List.append_nil, ← hq]⟩
  | cons b rest ih =>
    have hemit := execEmit_of_enabled hq (emitEnabled_iff.mpr ⟨hrst, by simp [hq], hready⟩)
    obtain ⟨t, ht, heq⟩ := ih (s := releaseHold (emitEvent { s with txq := rest } (.wire b))) rfl hrst hready
    refine ⟨t, by rw [List.length_cons, emits, hemit]; exact ht, ?_⟩
    rw [heq]
    simp

@[simp] theorem adcReads_map_wire (bytes : List Byte) : adcReads (bytes.map .wire) = 0 := by
  simp [adcReads, List.countP_map]

@[simp] theorem diagRecords_map_wire (bytes : List Byte) : diagRecords (bytes.map .wire) = 0 := by
  simp [diagRecords, List.countP_map]

/-! ## One millisecond -/

/-- A state in TIMER mode and RUN that nothing holds up: MAIN free, the ADC within its contract, the sink ready, no byte
queued, and T advancing by 1. -/
structure Undisturbed (s : State) : Prop where
  inv : Inv s
  timer : s.cfg.txMode = .timer
  run : s.fsm = .run
  free : MainRuns s
  code : s.ports.adcCode ≤ codeMax
  ready : s.ports.txReady = true
  advance : s.ports.advance = 0
  txq : s.txq = []

/-- A millisecond is a POLL one millisecond later, after which the sink takes the queue. -/
theorem Undisturbed.millisecond_next {s : State} (hs : Undisturbed s) :
    ∃ u t, Polled (advanceTo (s.time + 1) s) u ∧ millisecond s = .next t ∧ Inv t
      ∧ t = { u with txq := [], events := u.events ++ u.txq.map .wire, holding := t.holding } := by
  have htime : exec .time s = .next (advanceTo (s.time + 1) s) := by rw [exec, execTime, hs.advance]
  have hinv : Inv (advanceTo (s.time + 1) s) := (LastMove.op htime).inv hs.inv
  have ⟨hcfg, hshape, _⟩ := hinv
  have hroom : (advanceTo (s.time + 1) s).txq.length + frameLen s.cfg.frameMode ≤ s.cfg.txqDepth := by
    obtain ⟨-, -, -, -, -, -, ⟨-, hfits⟩, -, -⟩ := (configError_eq_none_iff _).mp hcfg
    simpa [hs.txq] using hfits
  obtain ⟨u, hu⟩ := pollOp_completes hshape
  have hpolled := pollOp_polled hu
  have hpoll : exec .poll (advanceTo (s.time + 1) s) = .next u := by
    have henabled : pollEnabled (advanceTo (s.time + 1) s) = true :=
      pollEnabled_of_room (mainFree_iff.mpr hs.free) hs.run fun _ => hroom
    rw [execPoll_of_enabled henabled fun _ => hs.code, hu]
  obtain ⟨t, ht, heq⟩ := emits_drains (s := u) rfl (by rw [hpolled.ports]; exact hs.free.1)
    (by rw [hpolled.ports]; exact hs.ready)
  refine ⟨u, t, hpolled, ?_, emits_inv ht ((LastMove.op hpoll).inv hinv), heq⟩
  rw [millisecond, htime, andThen_next, hpoll, andThen_next, ht]

/-! ## The cadences -/

/-- `s` is `k` milliseconds after `start`: the conversions and the records since are the multiples of their periods up
to `k`, and each timer stands at the last of its multiples. -/
structure Cadence (start : State) (k : Nat) (s : State) : Prop where
  undisturbed : Undisturbed s
  cfg : s.cfg = start.cfg
  time : s.time = start.time + k
  adcReads : adcReads s.events = adcReads start.events + k / start.cfg.samplePeriod
  diagRecords : diagRecords s.events = diagRecords start.events + k / start.cfg.txPeriod
  lastSampleTime : s.lastSampleTime =
    BitVec.ofNat 32 (start.time + start.cfg.samplePeriod * (k / start.cfg.samplePeriod))
  lastTransmitTime : s.lastTransmitTime =
    BitVec.ofNat 32 (start.time + start.cfg.txPeriod * (k / start.cfg.txPeriod))

theorem Cadence.zero {s : State} (hs : Undisturbed s) (hsample : s.lastSampleTime = nowOf s)
    (htransmit : s.lastTransmitTime = nowOf s) : Cadence s 0 s where
  undisturbed := hs
  cfg := rfl
  time := rfl
  adcReads := by simp
  diagRecords := by simp
  lastSampleTime := by simpa [nowOf] using hsample
  lastTransmitTime := by simpa [nowOf] using htransmit

/-- A millisecond later each condition holds exactly at a multiple of its period. -/
theorem Cadence.due {start s : State} {k : Nat} (h : Cadence start k s) :
    let u := advanceTo (s.time + 1) s
    sampleDue u (nowOf u) = decide (start.cfg.samplePeriod ∣ k + 1)
      ∧ transmitDue u (nowOf u) = decide (start.cfg.txPeriod ∣ k + 1) := by
  intro u
  obtain ⟨hcfg, -⟩ := h.undisturbed.inv
  obtain ⟨-, -, -, -, ⟨hsamplePos, hsampleMax⟩, ⟨htxPos, htxMax⟩, -⟩ := (configError_eq_none_iff _).mp hcfg
  rw [h.cfg] at hsamplePos hsampleMax htxPos htxMax
  have hnow : nowOf u = BitVec.ofNat 32 (start.time + (k + 1)) := by
    simp only [nowOf, u, advanceTo_time, h.time, Nat.add_assoc]
  constructor
  · simp only [sampleDue, hnow, u, advanceTo_cfg, advanceTo_lastSampleTime, h.cfg, h.lastSampleTime,
      period_elapsed_iff hsamplePos hsampleMax]
  · simp only [transmitDue_of_timer (s := u) h.undisturbed.timer, hnow, u, advanceTo_cfg, advanceTo_lastTransmitTime,
      h.cfg, h.lastTransmitTime, period_elapsed_iff htxPos htxMax]

theorem Cadence.millisecond {start s : State} {k : Nat} (h : Cadence start k s) :
    ∃ t, millisecond s = .next t ∧ Cadence start (k + 1) t := by
  have hs := h.undisturbed
  obtain ⟨u, t, hpolled, hms, hinv, heq⟩ := hs.millisecond_next
  obtain ⟨hsample, htransmit⟩ := h.due
  have hnow : nowOf (advanceTo (s.time + 1) s) = BitVec.ofNat 32 (start.time + (k + 1)) := by
    simp only [nowOf, advanceTo_time, h.time, Nat.add_assoc]
  have hcfg : t.cfg = s.cfg := by rw [heq]; exact hpolled.cfg
  have hports : t.ports = s.ports := by rw [heq]; exact hpolled.ports
  have hevents : t.events = u.events ++ u.txq.map .wire := by rw [heq]
  refine ⟨t, hms,
    { undisturbed :=
        { inv := hinv
          timer := hcfg ▸ hs.timer
          run := by rw [heq]; exact hpolled.fsm.trans hs.run
          free := ⟨hports ▸ hs.free.1, by rw [heq]; exact hpolled.stuck.trans hs.free.2⟩
          code := hports ▸ hs.code
          ready := hports ▸ hs.ready
          advance := hports ▸ hs.advance
          txq := by rw [heq] }
      cfg := hcfg.trans h.cfg
      time := by rw [heq, hpolled.time, advanceTo_time, h.time, Nat.add_assoc]
      adcReads := ?_
      diagRecords := ?_
      lastSampleTime := ?_
      lastTransmitTime := ?_ }⟩
  · rw [hevents, adcReads_append, adcReads_map_wire, hpolled.adcReads, advanceTo_events, h.adcReads, hsample,
      Nat.succ_div]
    simp [Nat.add_assoc]
  · rw [hevents, diagRecords_append, diagRecords_map_wire, hpolled.diagRecords, advanceTo_events, h.diagRecords,
      htransmit, Nat.succ_div]
    simp [Nat.add_assoc]
  · rw [heq, ← last_multiple_succ, ← h.lastSampleTime, ← hnow]
    simpa [hsample] using hpolled.lastSampleTime
  · rw [heq, ← last_multiple_succ, ← h.lastTransmitTime, ← hnow]
    simpa [htransmit] using hpolled.lastTransmitTime

/-- The cadences go on for every number of milliseconds. -/
theorem Cadence.milliseconds {start s : State} {k : Nat} (h : Cadence start k s) (n : Nat) :
    ∃ t, milliseconds n s = .next t ∧ Cadence start (k + n) t := by
  induction n generalizing k s with
  | zero => exact ⟨s, rfl, h⟩
  | succ n ih =>
    obtain ⟨u, hu, hcadence⟩ := h.millisecond
    obtain ⟨t, ht, hlast⟩ := ih hcadence
    refine ⟨t, ?_, ?_⟩
    · rw [Safety.milliseconds, hu, andThen_next, ht]
    · rwa [Nat.add_right_comm, Nat.add_assoc] at hlast

end Sys2Proof.Machine
end

section
/-! SUPPORT. The statements about the scheduler and the trigger (42_scheduler_trigger.md). -/

namespace Sys2Proof.Proofs

open Sys2Proof.Machine Sys2Proof.Safety

/-- Settles O12: RESET is `resetCore`, from every state. -/
theorem resetClearsEveryRegister : Obligations.ResetClearsEveryRegister := by
  unfold Obligations.ResetClearsEveryRegister
  exact ⟨decodeLabel_encodeLabel .reset, fun s => ⟨resetCore s, rfl, rfl⟩⟩

/-- Settles O14: START where it is enabled. -/
theorem startCapturesTheTimestamps : Obligations.StartCapturesTheTimestamps := by
  unfold Obligations.StartCapturesTheTimestamps
  refine ⟨decodeLabel_encodeLabel .start, fun s hruns hinit hready => ?_⟩
  exact execStart_of_enabled (startEnabled_iff.mpr ⟨mainFree_iff.mpr hruns, hinit, hready⟩)

/-- Settles O16: TRIG where it is enabled. -/
theorem trigArmsAndRestartsTheTimer : Obligations.TrigArmsAndRestartsTheTimer := by
  unfold Obligations.TrigArmsAndRestartsTheTimer
  refine ⟨decodeLabel_encodeLabel .trig, fun s hrst hedge hrun hirq => ⟨takeTrigger s, ?_, rfl⟩⟩
  exact execTrig_of_enabled (trigEnabled_iff.mpr ⟨hrst, hedge, hrun, hirq⟩)

/-- Settles O15: each condition makes the step's own enabling condition false. -/
theorem stepsNotEnabledWait : Obligations.StepsNotEnabledWait := by
  unfold Obligations.StepsNotEnabledWait
  intro s
  have hfree : mainFree s = false ↔ ¬ MainRuns s := by rw [← Bool.not_eq_true, mainFree_iff]
  refine ⟨fun h => execStart_of_not_enabled (Bool.eq_false_iff.mpr fun he => ?_),
    fun h => execPoll_of_not_enabled (Bool.eq_false_iff.mpr fun he => ?_),
    fun hdue hroom => execPoll_of_not_enabled (Bool.eq_false_iff.mpr fun he => ?_),
    fun h => execTrig_of_not_enabled (Bool.eq_false_iff.mpr fun he => ?_),
    fun h => execEmit_of_not_enabled (Bool.eq_false_iff.mpr fun he => ?_),
    fun i hi hstop => exec_sub_of_not_free hi (hfree.mpr hstop), execXmit_of_no_room⟩
  · obtain ⟨hmain, hinit, hready⟩ := startEnabled_iff.mp he
    have hruns := mainFree_iff.mp hmain
    simp_all
  · obtain ⟨hmain, hrun, -⟩ := pollEnabled_iff.mp he
    have hruns := mainFree_iff.mp hmain
    simp_all
  · obtain ⟨-, hrun, hheld⟩ := pollEnabled_iff.mp he
    exact absurd (held_iff.mpr ⟨hrun, hdue, hroom⟩) (by simp [hheld])
  · obtain ⟨hrst, hedge, hrun, hirq⟩ := trigEnabled_iff.mp he
    simp_all
  · obtain ⟨hrst, hq, hready⟩ := emitEnabled_iff.mp he
    simp_all

/-- Settles O30: DIAG where MAIN may take steps is its one event. -/
theorem diagEmitsTheFourValues : Obligations.DiagEmitsTheFourValues := by
  unfold Obligations.DiagEmitsTheFourValues
  intro s hruns
  exact execDiag_of_free (mainFree_iff.mpr hruns)

/-- Settles O35: XMIT with room is its one update, with the frame of the configured variant. -/
theorem xmitQueuesOneFrame : Obligations.XmitQueuesOneFrame := by
  unfold Obligations.XmitQueuesOneFrame
  intro s hruns hroom val frame
  have hframe : frameOf s = frame := by
    cases hmode : s.cfg.frameMode <;> simp only [frameOf, frame, val, hmode]
  rw [execXmit_of_free (mainFree_iff.mpr hruns) (txqRoom_iff.mpr hroom), xmitOp_eq, hframe]
  rfl

/-- Settles O19: no part of an enabled POLL waits, and the tick leaves what the transmit condition reads. -/
theorem pollTicksThenTransmits : Obligations.PollTicksThenTransmits := by
  unfold Obligations.PollTicksThenTransmits
  intro s hruns hrun hcode hroom
  have hfree := mainFree_iff.mpr hruns
  have henabled := pollEnabled_of_room hfree hrun hroom
  rw [execPoll_of_enabled henabled hcode, pollOp]
  refine (andThen_congr fun t ht => ?_).trans (congrArg (andThen · _) (pollSample_eq_exec hfree hcode))
  have hsame : SameControl s t := { (pollSample_sameControl ht).1 with }
  have hfree' : mainFree t = true :=
    (mainFree_congr (by rw [hsame.ports]) (pollSample_sameControl ht).2).trans hfree
  have htransmit := pollTransmit_eq_exec (now := nowOf s) hfree' fun hd => by
    rw [hsame.txqRoom_eq, hsame.cfg]
    exact txqRoom_of_pollEnabled henabled (hsame.transmitDue_eq _ ▸ hd)
  rw [hsame.cfg, hsame.lastTransmitTime, hsame.pendingSend] at htransmit
  exact congrArg (andThen · fun u => .next (clearNow u)) htransmit

/-- Settles O20: what a completed POLL leaves, field by field. -/
theorem pollCompletesAndMovesTheTimers : Obligations.PollCompletesAndMovesTheTimers := by
  unfold Obligations.PollCompletesAndMovesTheTimers
  intro s hruns hrun hshape hcode hroom
  obtain ⟨t, ht⟩ := pollOp_completes hshape
  have hpolled := pollOp_polled ht
  obtain ⟨frame, hlen, htxq⟩ := hpolled.txq
  refine ⟨t, ?_, hpolled.lastSampleTime, hpolled.lastTransmitTime, hpolled.pendingSend, ?_, ?_, hpolled.adcReads,
    hpolled.diagRecords, fun hd => ?_, hpolled.cfg, hpolled.fsm, hpolled.time, hpolled.ports, hpolled.edge,
    hpolled.holding, hpolled.stuck, hpolled.part, hpolled.inputs⟩
  · rw [execPoll_of_enabled (pollEnabled_of_room (mainFree_iff.mpr hruns) hrun hroom) hcode, ht]
  · rw [htxq, List.length_append, apply_ite List.length, hlen, List.length_nil]
  · exact htxq ▸ List.prefix_append _ _
  · have hdata := hpolled.filters hd
    exact ⟨hdata.luxLast, hdata.smoothed, hdata.rawHist, hdata.notchHist, hdata.notchOut, hdata.firOut⟩

/-- Settles O21: the POLL waits, is stuck, or finds the transmit condition false. -/
theorem noFrameBeforeThePeriodAfterAnEdge : Obligations.NoFrameBeforeThePeriodAfterAnEdge := by
  unfold Obligations.NoFrameBeforeThePeriodAfterAnEdge
  intro s u _ _ hirq hearly h
  have hdue : transmitDue s (nowOf s) = false :=
    Bool.eq_false_iff.mpr fun hd => (transmitDue_iff.mp hd).1.not_gt hearly
  obtain rfl | ⟨-, rfl⟩ | hpolled := execPoll_polled h
  · exact ⟨rfl, rfl, rfl, rfl⟩
  · exact ⟨rfl, rfl, rfl, rfl⟩
  · obtain ⟨frame, -, htxq⟩ := hpolled.txq
    exact ⟨by simpa [hdue] using htxq, by simpa [hdue] using hpolled.diagRecords,
      by simpa [hdue] using hpolled.pendingSend, by simpa [hdue] using hpolled.lastTransmitTime⟩

/-- Settles O55: the configuration passes its checks, and the step the machine takes of its own completes. -/
theorem loopNeverTerminates : Obligations.LoopNeverTerminates := by
  unfold Obligations.LoopNeverTerminates
  intro s hinv hin
  have ⟨hcfg, hshape, _⟩ := hinv
  obtain ⟨t, ht⟩ := exec_completes (ownStep s) hshape
  have hstep : step s = .next t := by simpa only [step, hcfg, runNext, hin] using ht
  obtain ⟨-, -, -, -, -, hinputs, -⟩ := (exec_controlStep ht).mode_changes
  exact ⟨t, hstep, hinputs.trans hin, (exec_controlStep ht).ports_eq, everyStepKeepsTheInvariant s t hinv hstep,
    exec_stuck_of_code_in_range ht⟩

/-- Settles O57: the outcomes of every operation, each of which writes its listed registers alone. -/
theorem onlyTheListedOperationsWrite : Obligations.OnlyTheListedOperationsWrite := by
  unfold Obligations.OnlyTheListedOperationsWrite
  intro i s t h
  cases i with
  | reset => cases h; simp
  | time => cases h; simp
  | start => obtain rfl | rfl := execStart_next h <;> simp
  | trig => obtain rfl | rfl := execTrig_next h <;> simp
  | emit => obtain rfl | ⟨b, rest, -, -, rfl⟩ := execEmit_next h <;> simp
  | poll =>
    obtain rfl | ⟨-, rfl⟩ | hpolled := execPoll_polled h
    · simp
    · simp
    · simp [hpolled.fsm, hpolled.time, hpolled.cfg, hpolled.ports]
  | tick =>
    obtain rfl | ⟨-, rfl⟩ | ht := outcome_of_conversion h
    · simp
    · simp
    · obtain ⟨out, rfl⟩ := tickOp_next ht
      simp
  | sample =>
    obtain rfl | ⟨-, rfl⟩ | ht := outcome_of_conversion h
    · simp
    · simp
    · cases ht
      simp [sampleOp_eq]
  | notch =>
    obtain rfl | ht := eq_or_of_whenFree_next h
    · simp
    · obtain ⟨out, rfl⟩ := notchOp_next ht
      simp
  | fir =>
    obtain rfl | ht := eq_or_of_whenFree_next h
    · simp
    · obtain ⟨-, rfl⟩ := firOp_eq_next.mp ht
      simp
  | xmit => obtain rfl | rfl := execXmit_next h <;> simp [xmitOp_eq]
  | convert | ewma | hpush | value | crc8 | packBin | packTxt | diag =>
    obtain rfl | ht := eq_or_of_whenFree_next h
    · simp
    · cases ht
      simp [convertOp, ewmaOp, hpushOp, valueOp, crc8Op, packBinOp, packTxtOp, diagOp]

/-- Settles O60, by induction on the milliseconds from START. -/
theorem twoIndependentCadences : Obligations.TwoIndependentCadences := by
  unfold Obligations.TwoIndependentCadences
  intro s n hinv htimer hrun hruns hcode hready hadvance htxq hsample htransmit
  have hs : Undisturbed s := ⟨hinv, htimer, hrun, hruns, hcode, hready, hadvance, htxq⟩
  obtain ⟨t, ht, hcadence⟩ := (Cadence.zero hs hsample htransmit).milliseconds n
  rw [Nat.zero_add] at hcadence
  exact ⟨t, ht, hcadence.time, hcadence.adcReads, hcadence.diagRecords, hcadence.lastSampleTime,
    hcadence.lastTransmitTime, hcadence.undisturbed.txq⟩

end Sys2Proof.Proofs
end

section
/-! SUPPORT. The CRC register and the frames (43_framer_crc.md R181 to R189): the register is linear and loses nothing,
the binary head and the text digits in arithmetic form, and a float as a frame's value. -/

namespace Sys2Proof.Machine

/-! ## The CRC register (R182, R183) -/

theorem crcShift_eq (c : Byte) : crcShift c = (c <<< 1) ^^^ (if c.msb then crcPoly else 0) := by
  cases h : c.msb <;> simp [crcShift, h]

theorem crcShift_xor (c c' : Byte) : crcShift (c ^^^ c') = crcShift c ^^^ crcShift c' := by
  have hpoly : (if (c ^^^ c').msb then crcPoly else 0) =
      (if c.msb then crcPoly else 0) ^^^ (if c'.msb then crcPoly else 0) := by
    cases h : c.msb <;> cases h' : c'.msb <;> simp [BitVec.msb_xor, h, h']
  rw [crcShift_eq, crcShift_eq, crcShift_eq, hpoly, BitVec.shiftLeft_xor_distrib]
  ac_rfl

/-- A shift that leaves 0 has XORed no polynomial in, whose bit 0 is set, and so has lost no bit. -/
theorem eq_zero_of_crcShift {c : Byte} (h : crcShift c = 0#8) : c = 0#8 := by
  cases hc : c.msb with
  | false =>
    have hlow := BitVec.msb_eq_false_iff_two_mul_lt.mp hc
    have hshift : c <<< 1 = 0#8 := by simpa [crcShift, hc] using h
    bv_omega
  | true =>
    have hshift : c <<< 1 = crcPoly := BitVec.xor_eq_zero_iff.mp (by simpa [crcShift, hc] using h)
    rw [crcPoly] at hshift
    bv_omega

theorem crcShift_injective : Function.Injective crcShift := fun c c' h =>
  BitVec.xor_eq_zero_iff.mp (eq_zero_of_crcShift (by rw [crcShift_xor, h, BitVec.xor_self]))

theorem crcShifts_eq_iterate (n : Nat) (c : Byte) : crcShifts n c = crcShift^[n] c := by
  induction n generalizing c with
  | zero => rfl
  | succ n ih => exact ih (crcShift c)

theorem crcShifts_xor (n : Nat) (c c' : Byte) : crcShifts n (c ^^^ c') = crcShifts n c ^^^ crcShifts n c' := by
  induction n generalizing c c' with
  | zero => rfl
  | succ n ih => simp only [crcShifts, crcShift_xor, ih]

theorem crcShifts_injective (n : Nat) : Function.Injective (crcShifts n) := by
  rw [funext (crcShifts_eq_iterate n)]
  exact crcShift_injective.iterate n

/-- The register is linear in its start and the message together. -/
theorem crcUpdate_xor (c c' : Byte) {a b : List Byte} (hlen : a.length = b.length) :
    crcUpdate (c ^^^ c') (List.zipWith (· ^^^ ·) a b) = crcUpdate c a ^^^ crcUpdate c' b := by
  induction a generalizing b c c' with
  | nil =>
    obtain rfl := List.length_eq_zero_iff.mp hlen.symm
    rfl
  | cons x xs ih =>
    cases b with
    | nil => simp at hlen
    | cons y ys =>
      have hstep : c ^^^ c' ^^^ (x ^^^ y) = (c ^^^ x) ^^^ (c' ^^^ y) := by ac_rfl
      simp only [List.zipWith_cons_cons, crcUpdate, hstep, crcShifts_xor]
      exact ih _ _ (Nat.succ.inj hlen)

theorem crc8Of_xor {a b : List Byte} (hlen : a.length = b.length) :
    crc8Of (List.zipWith (· ^^^ ·) a b) = crc8Of a ^^^ crc8Of b :=
  crcUpdate_xor crcInit crcInit hlen

theorem crc8Of_pair (b0 b1 : Byte) : crc8Of [b0, b1] = crcShifts 8 (crcShifts 8 b0 ^^^ b1) := by
  simp [crc8Of, crcUpdate, crcInit]

theorem crc8Of_pair_left_inj {b0 b0' b1 : Byte} : crc8Of [b0, b1] = crc8Of [b0', b1] ↔ b0 = b0' := by
  rw [crc8Of_pair, crc8Of_pair, (crcShifts_injective 8).eq_iff, BitVec.xor_left_inj, (crcShifts_injective 8).eq_iff]

theorem crc8Of_pair_right_inj {b0 b1 b1' : Byte} : crc8Of [b0, b1] = crc8Of [b0, b1'] ↔ b1 = b1' := by
  rw [crc8Of_pair, crc8Of_pair, (crcShifts_injective 8).eq_iff, BitVec.xor_right_inj]

theorem xor_bit_ne (b : Byte) {k : Nat} (hk : k < 8) : b ^^^ (1#8 <<< k) ≠ b := fun h => by
  have hbit : (b ^^^ (1#8 <<< k)).getLsbD k = b.getLsbD k := by rw [h]
  simp [hk] at hbit

/-- The register bit by bit, as R182 writes it. -/
theorem crcUpdate_eq_foldl (c : Byte) (d : List Byte) :
    crcUpdate c d = d.foldl
      (fun c d => (List.range 8).foldl
        (fun c _ => if c.getLsbD 7 then (c <<< 1) ^^^ 0x07#8 else c <<< 1) (c ^^^ d)) c := by
  induction d generalizing c with
  | nil => rfl
  | cons x xs ih =>
    have hbits : crcShifts 8 (c ^^^ x) = (List.range 8).foldl (fun c _ => crcShift c) (c ^^^ x) := by
      rw [crcShifts_eq_iterate, List.foldl_const, List.length_range]
    rw [crcUpdate, ih, List.foldl_cons, hbits]
    rfl

/-! ## The binary frame (R184, R189) -/

theorem binHead_eq {sid val : Nat} (hsid : sid ≤ 15) (hval : val ≤ 4095) :
    binHead sid val = [BitVec.ofNat 8 (sid * 16 + val / 256), BitVec.ofNat 8 (val % 256)] := by
  have hstation : sid &&& 0xF = sid := (Nat.and_two_pow_sub_one_eq_mod sid 4).trans (by omega)
  have hhigh : val >>> 8 &&& 0xF = val / 256 := by
    rw [Nat.shiftRight_eq_div_pow]
    exact (Nat.and_two_pow_sub_one_eq_mod _ 4).trans (by omega)
  have hlow : val &&& 0xFF = val % 256 := Nat.and_two_pow_sub_one_eq_mod val 8
  rw [binHead, hstation, hhigh, hlow, ← Nat.shiftLeft_add_eq_or_of_lt (by omega : val / 256 < 2 ^ 4),
    Nat.shiftLeft_eq]

theorem binUnpack_eq (b0 b1 : Byte) :
    binUnpack b0 b1 = (b0.toNat / 16, b0.toNat % 16 * 256 + b1.toNat) := by
  have hnibble : b0.toNat &&& 0xF = b0.toNat % 16 := Nat.and_two_pow_sub_one_eq_mod _ 4
  rw [binUnpack, hnibble, ← Nat.shiftLeft_add_eq_or_of_lt b1.isLt, Nat.shiftLeft_eq, Nat.shiftRight_eq_div_pow]

/-- The receiver's station and value of a packed head (R189). -/
theorem binUnpack_packed {sid val : Nat} (hsid : sid ≤ 15) (hval : val ≤ 4095) :
    binUnpack (BitVec.ofNat 8 (sid * 16 + val / 256)) (BitVec.ofNat 8 (val % 256)) = (sid, val) := by
  simp only [binUnpack_eq, BitVec.toNat_ofNat, Prod.mk.injEq]
  omega

/-! ## The text frame (R185) -/

theorem asciiDigit_toNat {k : Nat} (h : k ≤ 9) : (asciiDigit k).toNat = 0x30 + k := by
  rw [asciiDigit, BitVec.toNat_ofNat]
  omega

/-! ## The frame's value (R181) -/

theorem frameValue_of_nan {x : F32} (mode : FrameMode) (h : f32IsNaN x = true) : frameValue mode x = 0 := by
  simp [frameValue, h]

/-- The truncation of a finite value toward zero, with every negative one counted as 0. -/
theorem toNat_f32Trunc (x : F32) : (f32Trunc x).toNat = (f32Val x).toNat / 2 ^ 149 := by
  cases h : f32Sign x <;> simp only [f32Trunc, f32Val, h, if_true, Bool.false_eq_true, if_false] <;> omega

theorem frameValue_of_finite {x : F32} (mode : FrameMode) (h : f32IsFinite x = true) :
    frameValue mode x = min (frameValueMax mode) ((f32Val x).toNat / 2 ^ 149) := by
  obtain ⟨hnan, hinf⟩ := not_special_of_finite h
  have hclamp : frameValue mode x = (max 0 (min (frameValueMax mode : Int) (f32Trunc x))).toNat := by
    simp [frameValue, hnan, hinf]
  rw [hclamp, ← toNat_f32Trunc]
  omega

end Sys2Proof.Machine
end

section
/-! SUPPORT. The statements about the framer and the CRC (43_framer_crc.md). -/

namespace Sys2Proof.Proofs

open Sys2Proof.Machine Sys2Proof.Safety

/-- Settles O31: a finite value gives the smaller of `hi` and its whole part, a negative one 0. -/
theorem valueTruncatesAndSaturates : Obligations.ValueTruncatesAndSaturates := by
  unfold Obligations.ValueTruncatesAndSaturates
  intro s hruns x hi
  have hx : selectedOutput s = x := rfl
  have hmax : frameValueMax s.cfg.frameMode = hi := rfl
  have hfinite (hfin : f32IsFinite x = true) :
      frameValue s.cfg.frameMode x = min hi ((f32Val x).toNat / 2 ^ 149) :=
    hmax ▸ frameValue_of_finite s.cfg.frameMode hfin
  refine ⟨frameValue s.cfg.frameMode x, ?_, frameValue_of_nan _, fun h => ?_, fun h => ?_, fun hfin hlow => ?_,
    fun hfin hhigh => ?_, fun hfin hpos hlow => ?_⟩
  · rw [execValue_of_free (mainFree_iff.mpr hruns), valueOp, hx]
  · rw [h]; exact hmax
  · rw [h]; rfl
  · rw [hfinite hfin]; omega
  · rw [hfinite hfin]; omega
  · rw [hfinite hfin]; omega

/-- Settles O33: PACK_BIN is its head bytes and their CRC. -/
theorem packBinLaysOutTheFrame : Obligations.PackBinLaysOutTheFrame := by
  unfold Obligations.PackBinLaysOutTheFrame
  intro s hruns hsid hval b0 b1
  rw [execPackBin_of_free (mainFree_iff.mpr hruns), packBinOp, binHead_eq hsid hval]
  rfl

/-- Settles O34: the digits are those of the station and of the value. -/
theorem packTxtWritesElevenCharacters : Obligations.PackTxtWritesElevenCharacters := by
  unfold Obligations.PackTxtWritesElevenCharacters
  intro s hruns hsid hval
  refine ⟨_, _, _, _, _, execPackTxt_of_free (mainFree_iff.mpr hruns), ?_, ?_, ?_, ?_⟩
  · obtain h | h : s.cfg.stationId / 10 = 0 ∨ s.cfg.stationId / 10 = 1 := by omega
    · exact .inl (congrArg asciiDigit h)
    · exact .inr (congrArg asciiDigit h)
  · simp only [List.forall_mem_cons, List.not_mem_nil, false_imp_iff, implies_true, and_true]
    refine ⟨?_, ?_, ?_, ?_⟩ <;> rw [asciiDigit_toNat (by omega)] <;> omega
  · rw [asciiDigit_toNat (by omega), asciiDigit_toNat (by omega)]
    omega
  · rw [asciiDigit_toNat (by omega), asciiDigit_toNat (by omega), asciiDigit_toNat (by omega)]
    omega

/-- Settles O48: the register is linear and injective in each byte, and a flipped byte is another byte. -/
theorem crcLaws : Obligations.CrcLaws := by
  unfold Obligations.CrcLaws
  refine ⟨by decide +kernel, fun b0 b1 k hk => ?_, fun s u hs hu hmsg => ?_, fun a b => crc8Of_xor, by decide +kernel⟩
  · exact ⟨crc8Of_pair_left_inj.not.mpr (xor_bit_ne b0 hk), crc8Of_pair_right_inj.not.mpr (xor_bit_ne b1 hk)⟩
  · exact ⟨crc8Op s, crc8Op u, execCrc8_of_free (mainFree_iff.mpr hs), execCrc8_of_free (mainFree_iff.mpr hu),
      congrArg crc8Of hmsg, rfl, rfl⟩

/-- Settles O49: unpacking is division by 16 and by 256, which the packed head undoes. -/
theorem binaryFrameRoundTrip : Obligations.BinaryFrameRoundTrip := by
  unfold Obligations.BinaryFrameRoundTrip
  intro sid val hsid hval
  have hunpack := binUnpack_packed hsid hval
  obtain ⟨hstation, hvalue⟩ := Prod.mk.inj hunpack
  exact ⟨_, _, binHead_eq hsid hval, hstation, hvalue, hunpack, fun b2 => beq_iff_eq⟩

/-- Settles O17: EMIT where it is enabled. -/
theorem emitSendsTheHeadByte : Obligations.EmitSendsTheHeadByte := by
  unfold Obligations.EmitSendsTheHeadByte
  refine ⟨decodeLabel_encodeLabel .emit, fun s b rest hrst hq hready => ⟨_, execEmit_of_enabled hq ?_, rfl⟩⟩
  exact emitEnabled_iff.mpr ⟨hrst, by simp [hq], hready⟩

/-- Settles O32: CRC8 where MAIN may take steps is the register over the local bytes, bit by bit. -/
theorem crc8IsTheBitSerialDivision : Obligations.Crc8IsTheBitSerialDivision := by
  unfold Obligations.Crc8IsTheBitSerialDivision
  intro s hruns
  rw [execCrc8_of_free (mainFree_iff.mpr hruns), crc8Op, crc8Of, crcUpdate_eq_foldl]
  rfl

end Sys2Proof.Proofs
end

section
/-! SUPPORT. The time base (60_exceptions.md R214, R215): TIME under a chosen advance, and the elapsed time of any gap. -/

namespace Sys2Proof.Machine

/-- TIME under an advance that the environment chose; the hold does not depend on the ports. -/
theorem execTime_of_advance (s : State) (a : Nat) :
    exec .time { s with ports := { s.ports with advance := a } } =
      .next { s with ports := { s.ports with advance := a }, time := s.time + (a + 1), holding := held s } := rfl

/-- The residues' difference is the residue of the gap, however often the count has wrapped. -/
theorem elapsed_ofNat_add (last gap : Nat) :
    elapsed (BitVec.ofNat 32 (last + gap)) (BitVec.ofNat 32 last) = gap % 2 ^ 32 := by
  rw [elapsed, BitVec.ofNat_add, BitVec.add_comm, BitVec.add_sub_cancel, BitVec.toNat_ofNat]

end Sys2Proof.Machine
end

section
/-! SUPPORT. The statements about failure and time (60_exceptions.md). -/

namespace Sys2Proof.Proofs

open Sys2Proof.Machine Sys2Proof.Safety

/-- Settles O54: the history files have their lengths, so every operation completes, and only a code out of range marks
MAIN as stuck. -/
theorem noOperationFails : Obligations.NoOperationFails := by
  unfold Obligations.NoOperationFails
  intro i s hinv
  have ⟨_, hshape, _⟩ := hinv
  obtain ⟨t, ht⟩ := exec_completes i hshape
  exact ⟨t, ht, exec_stuck_of_code_in_range ht⟩

/-- Settles O18: TIME adds the port level `advance` plus 1, so the level d - 1 makes it add d. -/
theorem timeAdvancesByAtLeastOne : Obligations.TimeAdvancesByAtLeastOne := by
  unfold Obligations.TimeAdvancesByAtLeastOne
  refine ⟨decodeLabel_encodeLabel .time, fun s => ⟨s.ports.advance + 1, Nat.le_add_left 1 _, rfl⟩, fun s d hd => ?_⟩
  refine ⟨{ s.ports with advance := d - 1 }, rfl, ?_⟩
  rw [execTime_of_advance, Nat.sub_add_cancel hd]

/-- Settles O50: the residue of the gap, at a gap below 2^32 and at 2^32 itself. -/
theorem elapsedIsTheGapModuloTheWrap : Obligations.ElapsedIsTheGapModuloTheWrap := by
  unfold Obligations.ElapsedIsTheGapModuloTheWrap
  intro last gap
  refine ⟨elapsed_ofNat_add last gap, fun hgap => ?_, ?_⟩
  · rw [elapsed_ofNat_add, Nat.mod_eq_of_lt hgap]
  · rw [elapsed_ofNat_add, Nat.mod_self]

end Sys2Proof.Proofs
end

section
/-! SUPPORT. The state after reset (70_reset_and_hazards.md R230, R231): TRIG is enabled only in RUN, and RESET leads to
the power-up registers. -/

namespace Sys2Proof.Machine

/-- The interrupt is disabled in INIT, whatever the ports and the edge detector hold. -/
theorem trigEnabled_of_init {s : State} (h : s.fsm = .init) : trigEnabled s = false := by
  refine Bool.eq_false_iff.mpr fun he => ?_
  obtain ⟨-, -, hrun, -⟩ := trigEnabled_iff.mp he
  cases h.symm.trans hrun

theorem powerUp_rawHist_length (c : Config) : (State.powerUp c).rawHist.length = max 3 c.firW.length :=
  List.length_replicate

theorem eq_zero_of_mem_powerUp_rawHist {c : Config} {x : F32} (h : x ∈ (State.powerUp c).rawHist) : x = 0 :=
  List.eq_of_mem_replicate h

/-- What RESET takes over from the state before it; all else is as after power-up. -/
theorem resetCore_eq_powerUp (s : State) :
    resetCore s =
      { State.powerUp s.cfg with
        time := s.time, ports := s.ports, events := s.events, inputs := s.inputs
        stuck := s.stuck, part := s.part } := rfl

end Sys2Proof.Machine
end

section
/-! SUPPORT. The statement about the state after reset (70_reset_and_hazards.md). -/

namespace Sys2Proof.Proofs

open Sys2Proof.Machine

/-- Settles O13: the power-up registers are read off, TRIG is not enabled because the mode is INIT, and RESET answers
the power-up state but for what it takes over. -/
theorem powerUpIsTheResetState : Obligations.PowerUpIsTheResetState := by
  unfold Obligations.PowerUpIsTheResetState
  refine ⟨fun c => ?_, Config.specExample, rfl⟩
  refine ⟨rfl, rfl, rfl, rfl, rfl, rfl, powerUp_rawHist_length c, fun x => eq_zero_of_mem_powerUp_rawHist, rfl, rfl, rfl,
    rfl, rfl, trigEnabled_of_init rfl, ?_⟩
  rintro u rfl
  exact ⟨resetCore u, rfl, resetCore_eq_powerUp u⟩

end Sys2Proof.Proofs
end
